-- ==== Sys2Proof/Word.lean ====
section
/-! DEFINITION. The word types of the block: widths only (spec 00_scope.md R5, R6; 10_state.md R26). -/

namespace Sys2Proof

/-- One host register, one command word (R26, R101: 32 bits). -/
abbrev Word := BitVec 32

/-- One data byte of the buffer, of the payload or on the bus (R42, R38, R88). -/
abbrev Byte := BitVec 8

/-- A bus address (R22: 7 bits, unsigned). -/
abbrev BusAddr := BitVec 7

/-- A byte offset in the host register space (R71: HOST_OFF_W = 12 bits). -/
abbrev Offset := BitVec 12

end Sys2Proof
end

