-- ==== Sys2Proof/Config.lean ====
section
/-! DEFINITION. What one build of the block fixes: the constants of rule R5, the parameters of rule R6 at the values the
spec takes, and the free values (opaque, no body) for everything the spec leaves unconstrained. `F_CLK` (R6) has no
entry: no rule depends on it. The parameter NUM (R181) is the pair of functions of Machine/Numeric.lean. -/

namespace Sys2Proof

/-- The parameter P_RACE (R6, R141): which outcome wins when one sample shows both nack and the awaited flag. -/
inductive Race
  | nackFirst
  | readyFirst
  | either
deriving DecidableEq, Repr

namespace Config

/-- ADDR_MIN (R5). -/
def addrMin : Nat := 1
/-- ADDR_MAX (R5). -/
def addrMax : Nat := 0x7E
/-- SENSOR_ADDR (R5). -/
def sensorAddr : BusAddr := 0x44#7
/-- TRIGGER_BYTE (R5). -/
def triggerByte : Byte := 0x00#8
/-- PAYLOAD_LEN (R5). -/
def payloadLen : Byte := 4#8
/-- N_PULSES (R5). -/
def nPulses : Nat := 9
/-- T_EDGE = 2 ms, in microseconds (R5). -/
def tEdge : Nat := 2000
/-- T_CLEAR_SETTLE = 10 ms (R5). -/
def tClearSettle : Nat := 10000
/-- T_STOP_SETTLE = 2 ms (R5). -/
def tStopSettle : Nat := 2000
/-- T_CONV = 50 ms (R5). -/
def tConv : Nat := 50000
/-- T_RECOVER_SETTLE = 50 ms (R5). -/
def tRecoverSettle : Nat := 50000
/-- T_BUSFREE_RETRY = 2 ms (R6, D9). -/
def tBusfreeRetry : Nat := 2000
/-- T_NACK_SETTLE = 2 ms (R6, D9). -/
def tNackSettle : Nat := 2000
/-- P_BUF_SIZE (R6, D15). -/
def bufSize : Nat := 32
/-- P_HAS_SCAN (R6, D22). -/
def hasScan : Bool := true
/-- P_SCAN_PROBE (R6, D22). -/
def scanProbe : Byte := 0x00#8
/-- P_RACE (R6, D7): the spec's value. The model's poll is written for all three values. -/
def pRace : Race := .nackFirst

/-- FLAGS (R90): what ENV answers to the `k`-th `LU.Sample()` after the `e`-th reset, as the four bits
busy, txrdy, nack, rxrdy from bit 3 down. FREE VALUE: unconstrained (log entry 2). -/
opaque flagsAnswer (e k : Nat) : BitVec 4

/-- RXB (R90): what ENV answers to the `k`-th `LU.RxRead()` after the `e`-th reset. FREE VALUE (log entry 2). -/
opaque rxAnswer (e k : Nat) : Byte

/-- What BUF byte `i` holds after the `e`-th reset until something writes it (U8: one arbitrary byte per unwritten
location, fixed until written). FREE VALUE (log entry 3). -/
opaque unwrittenByte (e i : Nat) : Byte

/-- What the `k`-th host read of an unspecified register or field draws (U6, U7: any value, possibly different each
time). FREE VALUE (log entry 4). -/
opaque freeWord (k : Nat) : Word

/-- The winner of the `k`-th sample after the `e`-th reset when P_RACE = Either (R141): true for nack. FREE VALUE; not
read while `pRace` is `nackFirst` (log entry 5). -/
opaque raceChoice (e k : Nat) : Bool

end Config

end Sys2Proof
end

