-- ==== Sys2Proof/Syntax.lean ====
section
/-! DEFINITION. The six commands of rule R100, one constructor per row of spec/opcode_table.json. -/

namespace Sys2Proof

/-- A command of the block (R100). Operands that stand in registers (TBUDGET, TB_SHORT, TB_LONG, BUF; R106) are no part
of the command word and so no part of the syntax. -/
inductive Instr
  /-- WRITE (R154), format X. -/
  | write (addr : BusAddr) (len : Byte)
  /-- READ (R155), format X. -/
  | read (addr : BusAddr) (len : Byte)
  /-- FORCE_CLEAR (R130), format Z. -/
  | forceClear
  /-- MEASURE (R170), format Z. -/
  | measure
  /-- SCAN (R190), format Z. -/
  | scan
  /-- REINIT (R133), format Z. -/
  | reinit
deriving DecidableEq, Repr

end Sys2Proof
end

