-- ==== Sys2Proof/WellFormed.lean ====
section
/-! DEFINITION. The part of the operand check (R107) that looks at the command word alone. The part that looks at the
budget registers needs the state and stands in Machine/Operands.lean. -/

namespace Sys2Proof

/-- ADDR_MIN <= ADDR <= ADDR_MAX (R107, R22). -/
def addrWellFormed (a : BusAddr) : Bool :=
  decide (Config.addrMin ≤ a.toNat) && decide (a.toNat ≤ Config.addrMax)

/-- 1 <= LEN <= P_BUF_SIZE (R107, R105). -/
def lenWellFormed (l : Byte) : Bool :=
  decide (1 ≤ l.toNat) && decide (l.toNat ≤ Config.bufSize)

/-- A command whose operands in the word are legal in this build. -/
def Instr.wellFormed : Instr → Bool
  | .write a l => addrWellFormed a && lenWellFormed l
  | .read a l => addrWellFormed a && lenWellFormed l
  | .forceClear => true
  | .measure => true
  | .scan => Config.hasScan
  | .reinit => true

end Sys2Proof
end

