-- ==== Sys2Proof/Decode.lean ====
section
/-! DEFINITION. Decoding of a command word (R101 to R103, R115), total and rejecting by name, and the encoder written
from the same formats. The operand check of R107 is not decoding: it is made when the command is accepted. -/

namespace Sys2Proof

/-- Why a word decodes to no command (R103 steps 1 and 2; R110). -/
inductive DecodeError
  /-- OP is 0 or in 7 to 15. -/
  | reservedOpcode
  /-- OP = 5 in a build with P_HAS_SCAN false. -/
  | scanAbsent
  /-- A must-be-zero bit is set. -/
  | mustBeZero
deriving DecidableEq, Repr

/-- OP = w[31:28] (R101, R102). -/
def opField (w : Word) : BitVec 4 := w.extractLsb' 28 4

/-- ADDR = w[22:16] (R104). -/
def addrField (w : Word) : BusAddr := w.extractLsb' 16 7

/-- LEN = w[15:8] (R105). -/
def lenField (w : Word) : Byte := w.extractLsb' 8 8

/-- The must-be-zero bits of format X: 27:23 and 7:0 (R101, R103). -/
def formatXReserved (w : Word) : Word := w &&& 0x0F8000FF#32

/-- The must-be-zero bits of format Z: 27:0 (R102, R103). -/
def formatZReserved (w : Word) : Word := w &&& 0x0FFFFFFF#32

/-- A format X word (R101), once its opcode is known. -/
def decodeX (i : Instr) (w : Word) : Except DecodeError Instr :=
  if formatXReserved w = 0#32 then .ok i else .error .mustBeZero

/-- A format Z word (R102), once its opcode is known. -/
def decodeZ (i : Instr) (w : Word) : Except DecodeError Instr :=
  if formatZReserved w = 0#32 then .ok i else .error .mustBeZero

/-- Rule R103, steps 1 to 3, in its order: the opcode, the must-be-zero bits, the fields. -/
def decode (w : Word) : Except DecodeError Instr :=
  if opField w = 1#4 then decodeX (.write (addrField w) (lenField w)) w
  else if opField w = 2#4 then decodeX (.read (addrField w) (lenField w)) w
  else if opField w = 3#4 then decodeZ .forceClear w
  else if opField w = 4#4 then decodeZ .measure w
  else if opField w = 5#4 then if Config.hasScan then decodeZ .scan w else .error .scanAbsent
  else if opField w = 6#4 then decodeZ .reinit w
  else .error .reservedOpcode

/-- The command word of a command: R154 and R155 for format X (match value, ADDR << 16, LEN << 8), R102 for format Z. -/
def encode : Instr → Word
  | .write a l => 0x10000000#32 ||| (a.setWidth 32 <<< 16) ||| (l.setWidth 32 <<< 8)
  | .read a l => 0x20000000#32 ||| (a.setWidth 32 <<< 16) ||| (l.setWidth 32 <<< 8)
  | .forceClear => 0x30000000#32
  | .measure => 0x40000000#32
  | .scan => 0x50000000#32
  | .reinit => 0x60000000#32

/-- The decoder's answer for an instruction whose bits the opcode table numbers as `w`: the only length is one 32-bit
word (R111), and bits at `nbits` and above are 0. -/
def decodeTableWord (nbits w : Nat) : Option Instr :=
  match decode (BitVec.ofNat 32 (w % 2 ^ nbits)) with
  | .ok i => some i
  | .error _ => none

end Sys2Proof
end

