-- ==== Sys2Proof/Machine/Types.lean ====
section
/-! DEFINITION. The data types the state is made of: failure codes, state-machine states, samples, events, host inputs.
Names only; every bit pattern they stand for is in Flags.lean. -/

namespace Sys2Proof.Machine

/-- The failure codes of rule R210. Codes 8 to 14 are never produced and have no constructor. -/
inductive Code
  | ok
  | busStuck
  | startTimeout
  | addressTimeout
  | addressNack
  | dataTimeout
  | dataNack
  | notReady
  | illegalCommand
deriving DecidableEq, Repr

/-- RESULT.STAGE (R29): the stage of the sensor cycle that failed. -/
inductive Stage
  | none
  | trigger
  | read
  | decode
deriving DecidableEq, Repr

/-- The content of the RESULT register (R29): written once, as a whole, when a command completes. -/
structure Result where
  code  : Code
  stage : Stage
  idx   : Byte
deriving DecidableEq, Repr

/-- RD_STATUS.STATUSCODE (R33, R175). -/
inductive StatusCode
  | valid
  | stale
  | notReady
  | reserved
deriving DecidableEq, Repr

/-- ESTATE (R47): the state of the TransactionEngine. Values 8 to 15 never occur and have no constructor. -/
inductive EState
  | idle
  | waitFree
  | start
  | addr
  | data
  | stop
  | done
  | failed
deriving DecidableEq, Repr

/-- DSTATE (R48): the state of the SensorProtocolDecoder. Values 6 to 15 never occur. -/
inductive DState
  | idle
  | triggered
  | await
  | reading
  | decoded
  | failed
deriving DecidableEq, Repr

/-- RSTATE (R49): the state of the BusRecoveryController. Value 3 never occurs. -/
inductive RState
  | idle
  | pulse
  | settle
deriving DecidableEq, Repr

/-- The direction of a transaction, XDIR (R50). -/
inductive Dir
  | write
  | read
deriving DecidableEq, Repr

/-- XSEL (R50): which byte array a transaction uses. -/
inductive XSel
  | buf
  | pay
  | const (b : Byte)
deriving DecidableEq, Repr

/-- The private four-byte array PAY of MEASURE (R38, R174), first byte received first. -/
structure Payload where
  b0 : Byte
  b1 : Byte
  b2 : Byte
  b3 : Byte
deriving DecidableEq, Repr

/-- One sample of the line unit's flags (R52). -/
structure Flags where
  busy  : Bool
  txrdy : Bool
  nack  : Bool
  rxrdy : Bool
deriving DecidableEq, Repr

/-- The alphabet of TRACE (R88). -/
inductive Event
  | cmd (w : Word)
  | ret (r : Result)
  | smp (f : Flags)
  | start
  | stop
  | tx (b : Byte)
  | rx (b : Byte)
  | ack (p : Bool)
  | nackClr
  | reinit
  | pinDrv (scl sda : Bool)
  | scl (v : Bool)
  | pinRel
  | dly (us : Nat)
deriving DecidableEq, Repr

/-- What a poll waits for (R141: `cond`; R142, R143, R144, R145, R146). -/
inductive PollCond
  | busFree
  | txReady
  | rxReady
deriving DecidableEq, Repr

/-- What a poll returns (R141). -/
inductive PollResult
  | ready
  | nack
  | timeout
deriving DecidableEq, Repr

/-- One thing the outside does to the block, in the order it is done. -/
inductive Input
  /-- HRD (R195). -/
  | hrd (off : Offset)
  /-- HWR (R196). -/
  | hwr (off : Offset) (v : Word)
  /-- The pseudo-instruction WAIT (R113): reads of STATUS until one shows BUSY = 0. -/
  | wait
  /-- The HOST makes no access before the CORE's next step. -/
  | yield
  /-- The reset input is asserted and released (R240). -/
  | rst
deriving DecidableEq, Repr

/-- How the HOST behaves while a command runs (log entry 1). -/
inductive Caller
  /-- The document's blocking call (R83, R197): no access until the command has completed. -/
  | blocks
  /-- A host that polls (R113): an access may land between any two steps of the CORE. -/
  | polls
deriving DecidableEq, Repr

/-- The CORE's position inside a running command: the primitive of rule R8 it made last, with the answer that primitive
returned where what follows depends on it. What the pseudocode does between this primitive and the next is part of the
next step (R8). With the tuple of rule R45 it says where execution is (log entry 6). The answer of a sample stands as what
it decides in its poll; none means that the poll goes on or runs out (R141). -/
inductive Upc
  /-- No command is in progress. -/
  | idle
  /-- The command was accepted (R197): `Cmd`. -/
  | accepted (i : Instr)
  /-- WaitBusFree (R142): a sample of the poll. -/
  | wfSmp (o : Option PollResult)
  /-- WaitBusFree: the forced stop. -/
  | wfStop
  /-- WaitBusFree: T_BUSFREE_RETRY. -/
  | wfDly
  /-- WaitBusFree: the one recheck, and whether it showed busy. -/
  | wfRecheck (busy : Bool)
  /-- StartPhase (R143): `LU.SetAck(1)` of a read. -/
  | stAck
  /-- StartPhase: `LU.Start()`. -/
  | stStart
  /-- StartPhase: a sample of the poll. -/
  | stSmp (o : Option PollResult)
  /-- AddressPhase (R144): the address byte. -/
  | adTx
  /-- AddressPhase: a sample of the poll. -/
  | adSmp (o : Option PollResult)
  /-- DataTx (R145): the data byte with index XIDX. -/
  | txByte
  /-- DataTx: a sample of the poll. -/
  | txSmp (o : Option PollResult)
  /-- DataRx (R146): `LU.SetAck(0)` before the final byte. -/
  | rxAck
  /-- DataRx: a sample of the poll. -/
  | rxSmp (o : Option PollResult)
  /-- DataRx: `LU.RxRead()`, and the byte it returned. -/
  | rxByte (b : Byte)
  /-- StopPhase (R147): `LU.Stop()`. -/
  | spStop
  /-- StopPhase: T_STOP_SETTLE. -/
  | spDly
  /-- NackExit (R148): `LU.ClearNack()`. -/
  | nkClear
  /-- NackExit: `LU.Stop()`. -/
  | nkStop
  /-- NackExit: T_NACK_SETTLE. -/
  | nkDly
  /-- ForceClear (R131): `Pin.Drive(1, 1)`. -/
  | fcDrive
  /-- ForceClear: `Pin.Scl(0)` of pulse PULSE. -/
  | fcLow
  /-- ForceClear: T_EDGE after the falling edge. -/
  | fcLowDly
  /-- ForceClear: `Pin.Scl(1)` of pulse PULSE. -/
  | fcHigh
  /-- ForceClear: T_EDGE after the rising edge. -/
  | fcHighDly
  /-- ForceClear: T_CLEAR_SETTLE. -/
  | fcSettle
  /-- Measure (R171): T_CONV. -/
  | convDly
  /-- Measure: T_RECOVER_SETTLE. -/
  | recoverDly
  /-- REINIT (R133): `Pin.Release()`. -/
  | riRelease
  /-- REINIT: `LU.Reinit()`. -/
  | riReinit
deriving DecidableEq, Repr

end Sys2Proof.Machine
end

