-- ==== Sys2Proof/Machine/State.lean ====
section
/-! DEFINITION. The state of the block as plain data (R20), the reasons a step can stop, and the state after reset (R59).
The fields from `inbox` on are the model's own, not the spec's; INVENTORY.md lists every field with its rule. -/

namespace Sys2Proof.Machine

/-- The bytes of BUF (R42, R72) that hold a value, as (index, byte) pairs in canonical form: indexes strictly rising. An
index that is not listed holds no value: nothing has written it since reset (log entry 3). -/
abbrev Memory := List Host.Cell

structure State where
  /-- CMD (R27). -/
  cmd        : Word
  /-- STATUS.BUSY (R28). -/
  busy       : Bool
  /-- STATUS.DONE (R28). -/
  done       : Bool
  /-- STATUS.DESYNC (R28, R55). -/
  desync     : Bool
  /-- STATUS.PIN_OVR (R28, R56). -/
  pinOvr     : Bool
  /-- STATUS.CMD_OVR (R28). -/
  cmdOvr     : Bool
  /-- STATUS.ACKPOL (R54). -/
  ackpol     : Bool
  /-- OPCUR (R46). -/
  opcur      : BitVec 4
  /-- ESTATE (R47). -/
  estate     : EState
  /-- DSTATE (R48). -/
  dstate     : DState
  /-- RSTATE (R49). -/
  rstate     : RState
  /-- PULSE (R49). -/
  pulse      : BitVec 4
  /-- RESULT (R29). -/
  result     : Result
  /-- TBUDGET (R30). -/
  tbudget    : Word
  /-- TB_SHORT (R31). -/
  tbShort    : Word
  /-- TB_LONG (R32). -/
  tbLong     : Word
  /-- RD_STATUS.RD_VALID (R33). -/
  rdValid    : Bool
  /-- RD_STATUS.STATUSCODE (R33). -/
  statusCode : StatusCode
  /-- HUM_RAW (R34). -/
  humRaw     : BitVec 14
  /-- TEMP_RAW (R35). -/
  tempRaw    : BitVec 14
  /-- HUM_PCT (R36), a binary32 bit pattern. -/
  humPct     : Word
  /-- TEMP_C (R37), a binary32 bit pattern. -/
  tempC      : Word
  /-- PAY, shown as PAYLOAD (R38). -/
  pay        : Payload
  /-- SCAN_COUNT.COUNT (R39). -/
  count      : BitVec 7
  /-- PRESENT, shown as PRESENT0 to PRESENT3 (R40): bit `a` is PRESENT[a]. -/
  present    : BitVec 128
  /-- PINS.SCL_O (R41, R56). -/
  sclO       : Bool
  /-- PINS.SDA_O (R41, R56). -/
  sdaO       : Bool
  /-- BUF (R42, R72). -/
  buf        : Memory
  /-- XDIR (R50). -/
  xdir       : Dir
  /-- XADDR (R50). -/
  xaddr      : BusAddr
  /-- XLEN (R50). -/
  xlen       : Byte
  /-- XB (R50). -/
  xb         : Word
  /-- XSEL (R50). -/
  xsel       : XSel
  /-- XIDX (R50). -/
  xidx       : Byte
  /-- CNT (R50, R141). -/
  cnt        : Word
  /-- SADDR (R51). -/
  saddr      : BusAddr
  /-- The latched TBUDGET, TB_SHORT and TB_LONG of the command in progress (R86, R197). -/
  opBudget   : Word
  opShort    : Word
  opLong     : Word
  /-- TRACE (R58), oldest event first. -/
  trace      : List Event
  /-- What the outside does next, first input first. -/
  inbox      : List Input
  /-- Whether the HOST waits for a command or polls. -/
  caller     : Caller
  /-- What host reads have returned, oldest first (R11 (b)). -/
  reads      : List (Offset × Word)
  /-- Where the CORE stands inside a running command: the primitive it made last. -/
  upc        : Upc
  /-- The code the last transaction returned to its caller (the local `c` of R171 and R190). -/
  xcode      : Code
  /-- PAYLOAD is defined: the read transaction of the last MEASURE succeeded (R38). -/
  payValid   : Bool
  /-- ENV's next answers to `LU.Sample()`, first answer first; when it is empty, `Config.flagsAnswer` answers. -/
  flagsIn    : List Flags
  /-- ENV's next answers to `LU.RxRead()`; when it is empty, `Config.rxAnswer` answers. -/
  rxIn       : List Byte
  /-- Samples taken since reset: the next one is FLAGS element `nSmp` (R90). -/
  nSmp       : Nat
  /-- Bytes fetched since reset (R90). -/
  nRx        : Nat
  /-- Host reads made: the counter the free value of an unspecified read is drawn with (U6, U7). -/
  draws      : Nat
  /-- Resets since power-on: a reset makes every unspecified value a new one. -/
  epoch      : Nat
deriving DecidableEq, Repr

/-- Why the machine stops with a fault. The spec has no halted, faulted or stuck state (R11). -/
inductive Fault
  /-- BUSY = 1 with no command in progress: a state no run reaches (Safety.lean). Raised by the CORE's step only. SAFE:
  the spec gives such a state no step. -/
  | noCommandInProgress
deriving DecidableEq, Repr

/-- Why the model refuses a move. -/
inductive Refusal
  /-- An instruction that has no meaning in the model. SAFE. -/
  | notModelled (mnemonic : String)
  /-- A host access at an offset that is not a multiple of 4 (R78, U9: "the model's host has no such move"). Raised by
  the step on HRD and HWR. SAFE: the spec leaves it unspecified and asks for this. -/
  | misalignedAccess (off : Offset)
deriving DecidableEq, Repr

/-- The state after reset (R59, R240). Values the spec calls unspecified are 0 here by DESIGN CHOICE (log entry 7): no
host read returns them and no rule reads them before writing them. -/
def State.reset : State where
  cmd        := 0x00000000#32
  busy       := false
  done       := false
  desync     := true
  pinOvr     := false
  cmdOvr     := false
  ackpol     := true
  opcur      := 0#4
  estate     := .idle
  dstate     := .idle
  rstate     := .idle
  pulse      := 0#4
  result     := ⟨.ok, .none, 0#8⟩
  tbudget    := 0#32
  tbShort    := 0#32
  tbLong     := 0#32
  rdValid    := false
  statusCode := .valid
  humRaw     := 0#14
  tempRaw    := 0#14
  humPct     := 0#32
  tempC      := 0#32
  pay        := ⟨0#8, 0#8, 0#8, 0#8⟩
  count      := 0#7
  present    := 0#128
  sclO       := true
  sdaO       := true
  buf        := []
  xdir       := .write
  xaddr      := 0#7
  xlen       := 0#8
  xb         := 0#32
  xsel       := .buf
  xidx       := 0#8
  cnt        := 0#32
  saddr      := 0#7
  opBudget   := 0#32
  opShort    := 0#32
  opLong     := 0#32
  trace      := []
  inbox      := []
  caller     := .blocks
  reads      := []
  upc        := .idle
  xcode      := .ok
  payValid   := false
  flagsIn    := []
  rxIn       := []
  nSmp       := 0
  nRx        := 0
  draws      := 0
  epoch      := 0

end Sys2Proof.Machine
end

