-- ==== Sys2Proof/Machine/Flags.lean ====
section
/-! DEFINITION. The bit patterns of the status registers: the codes of the state machines and failure codes, the composed
STATUS, RESULT, RD_STATUS, PINS, SCAN_COUNT and PRESENT words, and the four bits of a sample. -/

namespace Sys2Proof.Machine

/-- One bit at position `n` of a register. -/
def bitAt (n : Nat) (b : Bool) : Word := (BitVec.ofBool b).setWidth 32 <<< n

/-- A field placed at bit `n` and up of a register, every other bit 0 (R195). -/
def fieldAt {w : Nat} (n : Nat) (v : BitVec w) : Word := v.setWidth 32 <<< n

/-- RESULT.CODE values (R210). -/
def codeBits : Code → BitVec 4
  | .ok => 0#4
  | .busStuck => 1#4
  | .startTimeout => 2#4
  | .addressTimeout => 3#4
  | .addressNack => 4#4
  | .dataTimeout => 5#4
  | .dataNack => 6#4
  | .notReady => 7#4
  | .illegalCommand => 15#4

/-- RESULT.STAGE values (R29). -/
def stageBits : Stage → BitVec 3
  | .none => 0#3
  | .trigger => 1#3
  | .read => 2#3
  | .decode => 3#3

/-- STATUSCODE values (R33, R175). -/
def statusCodeBits : StatusCode → BitVec 2
  | .valid => 0#2
  | .stale => 1#2
  | .notReady => 2#2
  | .reserved => 3#2

/-- The status code a two-bit field names (R109, R175). -/
def statusCodeOf (b : BitVec 2) : StatusCode :=
  if b = 0#2 then .valid else if b = 1#2 then .stale else if b = 2#2 then .notReady else .reserved

/-- ESTATE values (R47). -/
def estateBits : EState → BitVec 4
  | .idle => 0#4
  | .waitFree => 1#4
  | .start => 2#4
  | .addr => 3#4
  | .data => 4#4
  | .stop => 5#4
  | .done => 6#4
  | .failed => 7#4

/-- DSTATE values (R48). -/
def dstateBits : DState → BitVec 4
  | .idle => 0#4
  | .triggered => 1#4
  | .await => 2#4
  | .reading => 3#4
  | .decoded => 4#4
  | .failed => 5#4

/-- RSTATE values (R49). -/
def rstateBits : RState → BitVec 2
  | .idle => 0#2
  | .pulse => 1#2
  | .settle => 2#2

/-- XDIR values and the direction bit of the address byte (R50, R108). -/
def dirBit : Dir → Bool
  | .write => false
  | .read => true

/-- The four bits of a sample in the order busy, txrdy, nack, rxrdy from bit 3 down (R88, R90). -/
def flagsOfBits (b : BitVec 4) : Flags where
  busy  := b.getLsbD 3
  txrdy := b.getLsbD 2
  nack  := b.getLsbD 1
  rxrdy := b.getLsbD 0

/-- STATUS while BUSY = 0 (R28). Bits 7:6 and 31:22 are 0. -/
def statusWord (s : State) : Word :=
  bitAt 0 s.busy ||| bitAt 1 s.done ||| bitAt 2 s.desync ||| bitAt 3 s.pinOvr ||| bitAt 4 s.cmdOvr |||
    bitAt 5 s.ackpol ||| fieldAt 8 s.opcur ||| fieldAt 12 (estateBits s.estate) |||
    fieldAt 16 (dstateBits s.dstate) ||| fieldAt 20 (rstateBits s.rstate)

/-- What a read of STATUS returns while BUSY = 1: bit 0 is 1, bit 1 is 0, every other bit unspecified (R28, R199). -/
def busyStatusWord (free : Word) : Word := (free &&& 0xFFFFFFFC#32) ||| 0x00000001#32

/-- RESULT (R29). -/
def resultWord (r : Result) : Word :=
  fieldAt 0 (codeBits r.code) ||| fieldAt 4 (stageBits r.stage) ||| fieldAt 8 r.idx

/-- STATUSCODE carries a value: after reset until the first accepted MEASURE, and while RD_VALID = 1 (R33, C9). DSTATE
leaves D_IDLE exactly when the first MEASURE is accepted (R48). -/
def statusCodeSpecified (s : State) : Bool := s.rdValid || decide (s.dstate = .idle)

/-- RD_STATUS while BUSY = 0 (R33). -/
def rdStatusWord (free : Word) (s : State) : Word :=
  bitAt 0 s.rdValid |||
    fieldAt 1 (if statusCodeSpecified s then statusCodeBits s.statusCode else free.setWidth 2)

/-- PINS (R41). -/
def pinsWord (s : State) : Word := bitAt 0 s.sclO ||| bitAt 1 s.sdaO

/-- PRESENT0 to PRESENT3 (R40): bit `a mod 32` of word `a div 32` is PRESENT[a]. -/
def presentWord (k : Nat) (s : State) : Word := s.present.extractLsb' (32 * k) 32

end Sys2Proof.Machine
end

