-- ==== Sys2Proof/Machine/Operands.lean ====
section
/-! DEFINITION. Operand forms: the operand check of accept (R107), the latched operands (R86, R106), the address byte
(R108), the byte arrays a transaction uses (R50, R150), and the fields of the sensor payload (R109, R175 to R177). -/

namespace Sys2Proof.Machine

/-- ADDR_MIN <= ADDR <= ADDR_MAX (R107). -/
def addrLegal (a : BusAddr) : Bool := decide (Config.addrMin ≤ a.toNat) && decide (a.toNat ≤ Config.addrMax)

/-- 1 <= LEN <= P_BUF_SIZE (R107). -/
def lenLegal (l : Byte) : Bool := decide (1 ≤ l.toNat) && decide (l.toNat ≤ Config.bufSize)

/-- A budget of 0 is not a legal operand (R23, R107). -/
def budgetLegal (b : Word) : Bool := decide (b ≠ 0#32)

/-- The operand check of rule R107. It looks at no status flag (R245). -/
def operandsLegal : Instr → State → Bool
  | .write a l, s => addrLegal a && lenLegal l && budgetLegal s.tbudget
  | .read a l, s => addrLegal a && lenLegal l && budgetLegal s.tbudget
  | .forceClear, _ => true
  | .measure, s => budgetLegal s.tbShort && budgetLegal s.tbLong
  | .scan, s => Config.hasScan && budgetLegal s.tbShort
  | .reinit, _ => true

/-- The implicit operands a command copies at accept (R86, R106, R197); WRITE and READ copy TBUDGET into XB (R30). -/
def latchOperands : Instr → State → State
  | .write _ _, s => { s with opBudget := s.tbudget, xb := s.tbudget }
  | .read _ _, s => { s with opBudget := s.tbudget, xb := s.tbudget }
  | .forceClear, s => s
  | .measure, s => { s with opShort := s.tbShort, opLong := s.tbLong }
  | .scan, s => { s with opShort := s.tbShort }
  | .reinit, s => s

/-- ABYTE = (zext_8(A) << 1) | DIR (R108). -/
def addressByte (a : BusAddr) (d : Dir) : Byte :=
  (a.setWidth 8 <<< 1) ||| (BitVec.ofBool (dirBit d)).setWidth 8

/-- PAY[i] (R38). -/
def payGet (p : Payload) (i : Nat) : Byte :=
  if i = 0 then p.b0 else if i = 1 then p.b1 else if i = 2 then p.b2 else p.b3

/-- PAY[i] <- v; PAY has the bytes 0 to 3 only (R38). -/
def paySet (p : Payload) (i : Nat) (v : Byte) : Payload :=
  if i = 0 then { p with b0 := v } else if i = 1 then { p with b1 := v }
  else if i = 2 then { p with b2 := v } else if i = 3 then { p with b3 := v } else p

/-- PAYLOAD (R38): PAY[k] in bits 8k+7 to 8k. -/
def payloadWord (p : Payload) : Word := fieldAt 0 p.b0 ||| fieldAt 8 p.b1 ||| fieldAt 16 p.b2 ||| fieldAt 24 p.b3

/-- Status, bits 7:6 of byte0 (R175): (byte0 >> 6) & 0b11. -/
def payloadStatus (p : Payload) : StatusCode := statusCodeOf ((p.b0 >>> 6).setWidth 2)

/-- humidityRaw (R176): ((byte0 & 0x3F) << 8) | byte1, at a width of 14 bits. -/
def payloadHumRaw (p : Payload) : BitVec 14 := ((p.b0 &&& 0x3F#8).setWidth 14 <<< 8) ||| p.b1.setWidth 14

/-- temperatureRaw (R177): (byte3 << 6) | ((byte2 >> 2) & 0x3F), at a width of 14 bits. -/
def payloadTempRaw (p : Payload) : BitVec 14 :=
  (p.b3.setWidth 14 <<< 6) ||| ((p.b2 >>> 2) &&& 0x3F#8).setWidth 14

end Sys2Proof.Machine
end

