-- ==== Sys2Proof/Machine/Ops.lean ====
section
/-! DEFINITION. The named operations every command is written over: the buffer as canonical memory, the primitives of
rule R8 with their events, the answers of ENV (R90), and what every command shares: accept, refusal, failure entry and
completion (R197, R198, R216, R217). -/

namespace Sys2Proof.Machine

/-! ### BUF as memory in canonical form (R72) -/

/-- The value stored at index `a`, or none if nothing has written it. -/
def Memory.lookup : Memory → Nat → Option Byte
  | [], _ => none
  | (a', b) :: m, a => if a = a' then some b else Memory.lookup m a

/-- Store `b` at index `a`, keeping the indexes strictly rising. -/
def Memory.store : Memory → Nat → Byte → Memory
  | [], a, b => [(a, b)]
  | (a', b') :: m, a, b =>
    if a < a' then (a, b) :: (a', b') :: m
    else if a = a' then (a, b) :: m
    else (a', b') :: Memory.store m a b

/-- Every index of `m` is at least `lo`, below P_BUF_SIZE, and the indexes rise strictly. -/
def Memory.wfFrom : Nat → Memory → Bool
  | _, [] => true
  | lo, (a, _) :: m => decide (lo ≤ a) && decide (a < Config.bufSize) && Memory.wfFrom (a + 1) m

/-- The canonical form: strictly rising indexes of existing bytes. No entry stands for "holds no value", which is what an
unlisted index reads as. -/
def Memory.wf (m : Memory) : Bool := Memory.wfFrom 0 m

/-- BUF[i] (R42): the stored byte; a byte nothing has written is arbitrary and fixed until written (U8). -/
def bufByte (s : State) (i : Nat) : Byte := (Memory.lookup s.buf i).getD (Config.unwrittenByte s.epoch i)

/-- BUF[i] <- v. BUF has the bytes 0 to P_BUF_SIZE - 1 only; no rule stores outside them (R107). -/
def bufStore (i : Nat) (v : Byte) (s : State) : State :=
  if i < Config.bufSize then { s with buf := Memory.store s.buf i v } else s

/-! ### The primitives of rule R8 -/

/-- Append one event to TRACE (R58, R88). -/
def emit (e : Event) (s : State) : State := { s with trace := s.trace ++ [e] }

/-- ENV's answer to the next `LU.Sample()` (R90). -/
def nextFlags (s : State) : Flags :=
  s.flagsIn.head?.getD (flagsOfBits (Config.flagsAnswer s.epoch s.nSmp))

/-- `LU.Sample()`: the answer is `nextFlags`; this is the state after it. -/
def luSample (s : State) : State :=
  emit (.smp (nextFlags s)) { s with flagsIn := s.flagsIn.tail, nSmp := s.nSmp + 1 }

/-- ENV's answer to the next `LU.RxRead()` (R90). -/
def nextRx (s : State) : Byte := s.rxIn.head?.getD (Config.rxAnswer s.epoch s.nRx)

/-- `LU.RxRead()`: the answer is `nextRx`; this is the state after it. -/
def luRxRead (s : State) : State :=
  emit (.rx (nextRx s)) { s with rxIn := s.rxIn.tail, nRx := s.nRx + 1 }

def luStart (s : State) : State := emit .start s
def luStop (s : State) : State := emit .stop s
def luTxWrite (b : Byte) (s : State) : State := emit (.tx b) s
/-- `LU.SetAck(p)`; ACKPOL is the value last passed to it (R53, R54). -/
def luSetAck (p : Bool) (s : State) : State := emit (.ack p) { s with ackpol := p }
def luClearNack (s : State) : State := emit .nackClr s
def luReinit (s : State) : State := emit .reinit s
/-- `Pin.Drive(scl, sda)` (R74). -/
def pinDrive (scl sda : Bool) (s : State) : State :=
  emit (.pinDrv scl sda) { s with pinOvr := true, sclO := scl, sdaO := sda }
/-- `Pin.Scl(v)` (R74). -/
def pinScl (v : Bool) (s : State) : State := emit (.scl v) { s with sclO := v }
/-- `Pin.Release()` (R74). -/
def pinRelease (s : State) : State := emit .pinRel { s with pinOvr := false }
/-- `Dly(us)`: an event, no time (R225). -/
def dly (us : Nat) (s : State) : State := emit (.dly us) s

/-! ### The byte array a transaction uses (R150) -/

/-- xb[i]. -/
def arrayByte (sel : XSel) (s : State) (i : Nat) : Byte :=
  match sel with
  | .buf => bufByte s i
  | .pay => payGet s.pay i
  | .const b => b

/-- xb[i] <- v; a constant source is never written. -/
def arrayStore (sel : XSel) (i : Nat) (v : Byte) (s : State) : State :=
  match sel with
  | .buf => bufStore i v s
  | .pay => { s with pay := paySet s.pay i v }
  | .const _ => s

/-! ### Failure entry (R216). Nothing is saved, nothing is vectored: these are the block's exceptions. -/

/-- The plain failure exit (R149): ESTATE <- E_FAILED, no bus action. -/
def failPlain (c : Code) (s : State) : Code × State := (c, { s with estate := .failed })

/-- The NACK exit (R148) and the failure code the phase names. -/
def failNack (c : Code) (s : State) : Code × State :=
  (c, { dly Config.tNackSettle (luStop (luClearNack s)) with estate := .failed })

/-! ### What every command shares (R197, R198, R200, R217) -/

/-- A write to CMD while BUSY = 1 (R198). -/
def overrun (s : State) : State := { s with cmdOvr := true }

/-- A write to CMD taken while BUSY = 0 (R197, first lines): CMD, OPCUR, DONE, CMD_OVR and the `Cmd` event. -/
def takeWord (w : Word) (s : State) : State :=
  emit (.cmd w) { s with cmd := w, opcur := opField w, done := false, cmdOvr := false }

/-- The RESULT of an illegal word (R110, R215). -/
def illegalResult : Result := ⟨.illegalCommand, .none, 0#8⟩

/-- An illegal word completes at once; BUSY stays 0 (R197, R110). -/
def refuseWord (s : State) : State := { emit (.ret illegalResult) { s with result := illegalResult } with done := true }

/-- Accept of a legal command (R197): the implicit operands are latched and BUSY rises. -/
def acceptCommand (i : Instr) (s : State) : State := { latchOperands i s with busy := true }

/-- Completion (R197), of a success and of a failure alike (R217): RESULT, the `Ret` event, BUSY falls and DONE rises. -/
def complete (r : Result) (s : State) : State :=
  { emit (.ret r) { s with result := r } with busy := false, done := true, upc := .idle }

/-- The CORE's position. -/
def goTo (u : Upc) (s : State) : State := { s with upc := u }

/-- The meaning every command shares (R197, R198): `run` is the command's operation from accept to its outcome, `atAccept`
what rules R33, R39, R40 and R48 say is done when the command is accepted. A HOST that blocks sees the whole command in one
step; for one that polls the CORE then moves one primitive at a time (log entry 1). -/
def command (i : Instr) (run : State → Result × State) (atAccept : State → State) (s : State) :
    Host.Outcome State Fault Refusal :=
  if s.busy then .next (overrun s)
  else if operandsLegal i s then
    match s.caller with
    | .blocks =>
      let out := run (acceptCommand i (takeWord (encode i) s))
      .next (complete out.1 out.2)
    | .polls => .next (goTo (.accepted i) (atAccept (acceptCommand i (takeWord (encode i) s))))
  else .next (refuseWord (takeWord (encode i) s))

end Sys2Proof.Machine
end

