-- ==== Sys2Proof/Machine/BusRecovery.lean ====
section
/-! DEFINITION. The BusRecoveryController (40_bus_recovery.md): the procedure ForceClear and the meanings of FORCE_CLEAR
and REINIT. -/

namespace Sys2Proof.Machine

/-- One pulse of rule R131: low, T_EDGE, high, T_EDGE. -/
def clockPulse (k : Nat) (s : State) : State :=
  dly Config.tEdge (pinScl true (dly Config.tEdge (pinScl false { s with pulse := BitVec.ofNat 4 k })))

/-- The loop of rule R131 from pulse `k`, with `n` pulses to go. -/
def clockPulses : Nat → Nat → State → State
  | 0, _, s => s
  | n + 1, k, s => clockPulses n (k + 1) (clockPulse k s)

/-- The first lines of rule R131: the pins are taken and driven high. -/
def takePins (s : State) : State := { pinDrive true true { s with desync := true } with rstate := .pulse }

/-- The last lines of rule R131: the settle delay. -/
def settlePins (s : State) : State :=
  { dly Config.tClearSettle { s with pulse := 0#4, rstate := .settle } with rstate := .idle }

/-- `ForceClear()` (R131). -/
def runForceClear (s : State) : State := settlePins (clockPulses Config.nPulses 1 (takePins s))

/-- The operation of REINIT (R133) after accept. -/
def runReinit (s : State) : State :=
  { luReinit (pinRelease s) with desync := false, estate := .idle }

/-- The RESULT of a command that succeeded and counts no bytes. -/
def okResult : Result := ⟨.ok, .none, 0#8⟩

/-- FORCE_CLEAR (R130). -/
def execForceClear (s : State) : Host.Outcome State Fault Refusal :=
  command .forceClear (fun s' => (okResult, runForceClear s')) id s

/-- REINIT (R133). -/
def execReinit (s : State) : Host.Outcome State Fault Refusal :=
  command .reinit (fun s' => (okResult, runReinit s')) id s

end Sys2Proof.Machine
end

