-- ==== Sys2Proof/Machine/Transaction.lean ====
section
/-! DEFINITION. The TransactionEngine (41_transaction_engine.md): the bounded poll, the five phases, the procedure Xact,
and the meanings of WRITE and READ. -/

namespace Sys2Proof.Machine

/-! ### The bounded poll (R141) -/

/-- `cond` of rule R141 on one sample. -/
def condHolds : PollCond → Flags → Bool
  | .busFree, f => !f.busy
  | .txReady, f => f.txrdy
  | .rxReady, f => f.rxrdy

/-- What one sample decides in a poll, or none when the poll goes on (R141, R214). `seen` is a watched nack, `ready` the
condition, `coin` the free choice of P_RACE = Either. -/
def raceOutcome (race : Race) (seen ready coin : Bool) : Option PollResult :=
  match race with
  | .nackFirst => if seen then some .nack else if ready then some .ready else none
  | .readyFirst => if ready then some .ready else if seen then some .nack else none
  | .either =>
    if seen && ready then (if coin then some .nack else some .ready)
    else if seen then some .nack
    else if ready then some .ready
    else none

/-- The outcome of the sample the state is about to take. -/
def sampleOutcome (c : PollCond) (watch : Bool) (s : State) : Option PollResult :=
  raceOutcome Config.pRace (watch && (nextFlags s).nack) (condHolds c (nextFlags s))
    (Config.raceChoice s.epoch s.nSmp)

/-- CNT <- CNT - 1. -/
def countDown (s : State) : State := { s with cnt := s.cnt - 1 }

/-- The loop of rule R141 with `n` samples left: sample, test, then decrement (D6). -/
def pollLoop (c : PollCond) (watch : Bool) : Nat → State → PollResult × State
  | 0, s => (.timeout, s)
  | n + 1, s =>
    match sampleOutcome c watch s with
    | some r => (r, luSample s)
    | none => pollLoop c watch n (countDown (luSample s))

/-- `Poll(cond, watch, B)` (R141): CNT is loaded afresh from the budget. -/
def poll (c : PollCond) (watch : Bool) (b : Word) (s : State) : PollResult × State :=
  pollLoop c watch b.toNat { s with cnt := b }

/-! ### The phases. Each answers `Code.ok` or the code of its failure, whose exit actions it has made. -/

/-- `fail CODE` leaves the procedure: what follows a phase runs only after success (R150, R216). -/
def andThen (r : Code × State) (k : State → Code × State) : Code × State :=
  match r.1 with
  | .ok => k r.2
  | c => (c, r.2)

/-- `WaitBusFree(B)` (R142). -/
def waitBusFree (b : Word) (s : State) : Code × State :=
  let p := poll .busFree false b { s with estate := .waitFree }
  match p.1 with
  | .timeout =>
    let s' := dly Config.tBusfreeRetry (luStop p.2)
    if (nextFlags s').busy then failPlain .busStuck (luSample s') else (.ok, luSample s')
  | _ => (.ok, p.2)

/-- The acknowledge policy a read sets before its start condition (R143). -/
def startAck : Dir → State → State
  | .write, s => s
  | .read, s => luSetAck true s

/-- `StartPhase(DIR, B)` (R143). -/
def startPhase (d : Dir) (b : Word) (s : State) : Code × State :=
  let p := poll .txReady false b (luStart (startAck d { s with estate := .start }))
  match p.1 with
  | .timeout => failPlain .startTimeout p.2
  | _ => (.ok, p.2)

/-- `AddressPhase(A, DIR, B)` (R144). -/
def addressPhase (a : BusAddr) (d : Dir) (b : Word) (s : State) : Code × State :=
  let p := poll .txReady true b (luTxWrite (addressByte a d) { s with estate := .addr })
  match p.1 with
  | .ready => (.ok, p.2)
  | .nack => failNack .addressNack p.2
  | .timeout => failPlain .addressTimeout p.2

/-- `DataTx(b, B)` (R145). -/
def dataTx (v : Byte) (b : Word) (s : State) : Code × State :=
  let p := poll .txReady true b (luTxWrite v s)
  match p.1 with
  | .ready => (.ok, p.2)
  | .nack => failNack .dataNack p.2
  | .timeout => failPlain .dataTimeout p.2

/-- The switch to "no-acknowledge" before the final byte (R146). -/
def lastAck (last : Bool) (s : State) : State := if last then luSetAck false s else s

/-- `DataRx(last, B)` (R146), with the store of the byte it returns into xb[i] (R150). -/
def dataRx (last : Bool) (sel : XSel) (i : Nat) (b : Word) (s : State) : Code × State :=
  let p := poll .rxReady false b (lastAck last s)
  match p.1 with
  | .timeout => failPlain .dataTimeout p.2
  | _ => (.ok, arrayStore sel i (nextRx p.2) (luRxRead p.2))

/-- XIDX <- n (R150). -/
def setXidx (n : Nat) (s : State) : State := { s with xidx := BitVec.ofNat 8 n }

/-- One iteration of the data loop of rule R150, index `i` of `l`. -/
def dataByte (d : Dir) (sel : XSel) (l i : Nat) (b : Word) (s : State) : Code × State :=
  andThen
    (match d with
      | .write => dataTx (arrayByte sel s i) b s
      | .read => dataRx (decide (i + 1 = l)) sel i b s)
    (fun s' => (.ok, setXidx (i + 1) s'))

/-- The data loop of rule R150 from index `i`, with `n` bytes to go. -/
def dataLoop (d : Dir) (sel : XSel) (l : Nat) (b : Word) : Nat → Nat → State → Code × State
  | 0, _, s => (.ok, s)
  | n + 1, i, s => andThen (dataByte d sel l i b s) (dataLoop d sel l b n (i + 1))

/-- `StopPhase()` (R147). -/
def stopPhase (s : State) : State :=
  { dly Config.tStopSettle (luStop { s with estate := .stop }) with estate := .done }

/-! ### Xact (R150) -/

/-- The transaction latches (R50), loaded when a transaction starts. Between transactions they have no meaning and the spec
leaves their values open (U11); the model keeps the last ones (log entry 18, DESIGN CHOICE). -/
def latchXact (d : Dir) (a : BusAddr) (l : Byte) (b : Word) (sel : XSel) (s : State) : State :=
  { s with xdir := d, xaddr := a, xlen := l, xb := b, xsel := sel, xidx := 0#8 }

/-- The phases of rule R150 in order, up to the stop phase. -/
def xactPhases (d : Dir) (a : BusAddr) (l : Byte) (b : Word) (sel : XSel) (s : State) : Code × State :=
  andThen (waitBusFree b s) fun s1 =>
  andThen (startPhase d b s1) fun s2 =>
  andThen (addressPhase a d b s2) fun s3 =>
  andThen (dataLoop d sel l.toNat b l.toNat 0 { s3 with estate := .data }) fun s4 =>
  (.ok, stopPhase s4)

/-- `Xact(DIR, A, L, B, xb)` (R150): the code it returns is kept in `xcode`, the index in XIDX. -/
def xact (d : Dir) (a : BusAddr) (l : Byte) (b : Word) (sel : XSel) (s : State) : Code × State :=
  let r := xactPhases d a l b sel (latchXact d a l b sel s)
  (r.1, { r.2 with xcode := r.1 })

/-! ### The commands -/

/-- The operation of WRITE (R154) after accept. -/
def runWrite (a : BusAddr) (l : Byte) (s : State) : Result × State :=
  let x := xact .write a l s.opBudget .buf s
  (⟨x.1, .none, x.2.xidx⟩, x.2)

/-- The operation of READ (R155) after accept. -/
def runRead (a : BusAddr) (l : Byte) (s : State) : Result × State :=
  let x := xact .read a l s.opBudget .buf s
  (⟨x.1, .none, x.2.xidx⟩, x.2)

/-- WRITE (R154). -/
def execWrite (a : BusAddr) (l : Byte) (s : State) : Host.Outcome State Fault Refusal :=
  command (.write a l) (runWrite a l) id s

/-- READ (R155). -/
def execRead (a : BusAddr) (l : Byte) (s : State) : Host.Outcome State Fault Refusal :=
  command (.read a l) (runRead a l) id s

end Sys2Proof.Machine
end

