-- ==== Sys2Proof/Machine/BusScan.lean ====
section
/-! DEFINITION. The diagnostic bus scan (43_bus_scan.md): the meaning of SCAN. -/

namespace Sys2Proof.Machine

/-- PRESENT[0..127] <- 0, COUNT <- 0 (R190). -/
def clearScan (s : State) : State := { s with present := 0#128, count := 0#7 }

/-- What a probe of address SADDR that returned `c` leaves in the scan file (R190). -/
def notePresent (c : Code) (s : State) : State :=
  match c with
  | .ok => { s with present := s.present ||| (1#128 <<< s.saddr.toNat), count := s.count + 1#7 }
  | _ => s

/-- One probe (R190): `Xact(0, a, 1, TB_SHORT, [P_SCAN_PROBE])`, absorbed whatever its code. -/
def probe (a : Nat) (s : State) : State :=
  let x := xact .write (BitVec.ofNat 7 a) 1#8 s.opShort (.const Config.scanProbe) { s with saddr := BitVec.ofNat 7 a }
  notePresent x.1 x.2

/-- The loop of rule R190 from address `a`, with `n` addresses to go. -/
def scanLoop : Nat → Nat → State → State
  | 0, _, s => s
  | n + 1, a, s => scanLoop n (a + 1) (probe a s)

/-- How many addresses a scan probes: ADDR_MIN to ADDR_MAX. -/
def scanLength : Nat := Config.addrMax + 1 - Config.addrMin

/-- The operation of SCAN (R190) after accept. -/
def runScan (s : State) : Result × State := (okResult, scanLoop scanLength Config.addrMin (clearScan s))

/-- SCAN (R190). -/
def execScan (s : State) : Host.Outcome State Fault Refusal :=
  command .scan runScan clearScan s

end Sys2Proof.Machine
end

