-- ==== Sys2Proof/Machine/Numeric.lean ====
section
/-! DEFINITION. The parameter NUM at its default (R178 to R181): binary32 evaluation of the two calibrations, every step
rounded to nearest, ties to even, in the document's order; and the clamp of rule R180. Values are computed exactly as
fractions of integers and rounded once per step. Only finite operands occur (R181). -/

namespace Sys2Proof.Machine

/-- A finite value as an exact fraction `num / den`, `den > 0`. -/
structure Frac where
  num : Int
  den : Nat
deriving DecidableEq, Repr

/-- The value of a finite binary32 bit pattern: sign, eight exponent bits, 23 fraction bits (G1). -/
def floatValue (w : Word) : Frac :=
  let e := (w.extractLsb' 23 8).toNat
  let f := (w.extractLsb' 0 23).toNat
  let m : Nat := if e = 0 then f else f + 2 ^ 23
  let x : Nat := if e = 0 then 1 else e
  let n : Int := if w.getLsbD 31 then -(m : Int) else (m : Int)
  if 150 ≤ x then ⟨n * 2 ^ (x - 150), 1⟩ else ⟨n, 2 ^ (150 - x)⟩

/-- `n / d` rounded to the nearest integer, ties to even. -/
def roundQuotient (n d : Nat) : Nat :=
  let q := n / d
  let r := n % d
  if d < 2 * r then q + 1
  else if 2 * r = d then (if q % 2 = 0 then q else q + 1)
  else q

/-- The exponent `x` (biased by 150, at least 1) at which `n / d`, divided by 2 ^ (x - 150), has 24 bits or is below
that at x = 1 (the subnormal range). -/
def scaleOf (n d : Nat) : Nat :=
  let guess := n.log2 + 150 - d.log2 - 24
  let x := if guess < 1 then 1 else guess
  if d * 2 ^ (x + 24) ≤ n * 2 ^ 150 then x + 1 else x

/-- The binary32 magnitude nearest to `n / d`, ties to even: an integral significand at the scale of the value, packed
with its exponent; a carry out of the significand lands in the exponent as it should. A value too large gives infinity. -/
def packMagnitude (n d : Nat) : Nat :=
  if n = 0 then 0
  else
    let x := scaleOf n d
    let m := roundQuotient (n * 2 ^ 150) (d * 2 ^ x)
    let bits := if m < 2 ^ 23 then m else (x - 1) * 2 ^ 23 + m
    if bits < 0x7F800000 then bits else 0x7F800000

/-- The binary32 bit pattern nearest to a fraction, round to nearest, ties to even; zero is +0.0. -/
def roundFloat (v : Frac) : Word :=
  let b := BitVec.ofNat 32 (packMagnitude v.num.natAbs v.den)
  if v.num < 0 then b ||| 0x80000000#32 else b

/-- cvt32 (R178): an unsigned integer as binary32. -/
def cvt32 (n : Nat) : Word := roundFloat ⟨(n : Int), 1⟩

/-- fdiv32 (R178) of finite operands, the divisor positive. -/
def fdiv32 (a b : Word) : Word :=
  let x := floatValue a
  let y := floatValue b
  roundFloat ⟨x.num * y.den, x.den * y.num.natAbs⟩

/-- fmul32 (R178) of finite operands. -/
def fmul32 (a b : Word) : Word :=
  let x := floatValue a
  let y := floatValue b
  roundFloat ⟨x.num * y.num, x.den * y.den⟩

/-- fsub32 (R179) of finite operands. -/
def fsub32 (a b : Word) : Word :=
  let x := floatValue a
  let y := floatValue b
  roundFloat ⟨x.num * y.den - y.num * x.den, x.den * y.den⟩

/-- `a < b` as values. -/
def flt32 (a b : Word) : Bool :=
  let x := floatValue a
  let y := floatValue b
  decide (x.num * y.den < y.num * x.den)

/-- 16383.0 (R178). -/
def f16383 : Word := 0x467FFC00#32
/-- 100.0 (R178). -/
def f100 : Word := 0x42C80000#32
/-- 165.0 (R179). -/
def f165 : Word := 0x43250000#32
/-- 40.0 (R179). -/
def f40 : Word := 0x42200000#32
/-- -40.0, TEMP_LO (R180). -/
def fTempLo : Word := 0xC2200000#32
/-- 125.0, TEMP_HI (R180). -/
def fTempHi : Word := 0x42FA0000#32

/-- NUM.hum (R178). -/
def numHum (h : BitVec 14) : Word := fmul32 (fdiv32 (cvt32 h.toNat) f16383) f100

/-- NUM.temp (R179). -/
def numTemp (t : BitVec 14) : Word := fsub32 (fmul32 (fdiv32 (cvt32 t.toNat) f16383) f165) f40

/-- The clamp of rule R180; it is always applied. -/
def clampTemp (v : Word) : Word := if flt32 v fTempLo then fTempLo else if flt32 fTempHi v then fTempHi else v

end Sys2Proof.Machine
end

