-- ==== Sys2Proof/Machine/SensorDecoder.lean ====
section
/-! DEFINITION. The SensorProtocolDecoder (42_sensor_decoder.md): the procedure Measure, the decode of the payload, and
the meaning of MEASURE. -/

namespace Sys2Proof.Machine

/-- The trigger transaction's operands (R172). -/
def triggerXact (s : State) : Code × State :=
  xact .write Config.sensorAddr 1#8 s.opShort (.const Config.triggerByte) s

/-- The read transaction's operands (R174). -/
def readXact (s : State) : Code × State := xact .read Config.sensorAddr Config.payloadLen s.opLong .pay s

/-- The first lines of rule R171: the previous reading is gone. PAYLOAD becomes unspecified until a read succeeds (R38). -/
def beginMeasure (s : State) : State := { s with rdValid := false, payValid := false, dstate := .triggered }

/-- A cycle that ends in D_FAILED (R171). -/
def failMeasure (c : Code) (st : Stage) (s : State) : Result × State :=
  (⟨c, st, 0#8⟩, { s with dstate := .failed })

/-- The decode of a payload that was read (R171, R175 to R180). -/
def decodePayload (s : State) : Result × State :=
  match payloadStatus s.pay with
  | .notReady => failMeasure .notReady .decode { s with payValid := true }
  | st =>
    (okResult,
      { s with
        payValid   := true
        statusCode := st
        humRaw     := payloadHumRaw s.pay
        tempRaw    := payloadTempRaw s.pay
        humPct     := numHum (payloadHumRaw s.pay)
        tempC      := clampTemp (numTemp (payloadTempRaw s.pay))
        rdValid    := true
        dstate     := .decoded })

/-- Stage 3 of rule R171: the read, with recovery after a failure (R174). -/
def readStage (s : State) : Result × State :=
  let x := readXact s
  match x.1 with
  | .ok => decodePayload x.2
  | c => failMeasure c .read (dly Config.tRecoverSettle (runForceClear x.2))

/-- `Measure()` (R171). -/
def runMeasure (s : State) : Result × State :=
  let x := triggerXact (beginMeasure s)
  match x.1 with
  | .ok => readStage { dly Config.tConv { x.2 with dstate := .await } with dstate := .reading }
  | c => failMeasure c .trigger x.2

/-- MEASURE (R170). -/
def execMeasure (s : State) : Host.Outcome State Fault Refusal :=
  command .measure runMeasure beginMeasure s

end Sys2Proof.Machine
end

