-- ==== Sys2Proof/Machine/Dispatch.lean ====
section
/-! DEFINITION. The meaning of every command (R100): one arm per constructor of Instr. -/

namespace Sys2Proof.Machine

def exec (i : Instr) (s : State) : Host.Outcome State Fault Refusal :=
  match i with
  | .write a l => Sys2Proof.Machine.execWrite a l s
  | .read a l => Sys2Proof.Machine.execRead a l s
  | .forceClear => Sys2Proof.Machine.execForceClear s
  | .measure => Sys2Proof.Machine.execMeasure s
  | .scan => Sys2Proof.Machine.execScan s
  | .reinit => Sys2Proof.Machine.execReinit s

end Sys2Proof.Machine
end

