-- ==== Sys2Proof/Machine/HostAccess.lean ====
section
/-! DEFINITION. The HOST's register accesses (44_host_access.md): HRD (R195), HWR of every register but CMD (R196), what
both do while BUSY = 1 (R199), the reset input (R240), and the pseudo-instructions of rule R113 as input sequences. -/

namespace Sys2Proof.Machine

/-! ### Register offsets (R26) -/

def offCmd : Offset := 0x000#12
def offStatus : Offset := 0x004#12
def offResult : Offset := 0x008#12
def offTbudget : Offset := 0x00C#12
def offTbShort : Offset := 0x010#12
def offTbLong : Offset := 0x014#12
def offRdStatus : Offset := 0x018#12
def offHumRaw : Offset := 0x01C#12
def offTempRaw : Offset := 0x020#12
def offHumPct : Offset := 0x024#12
def offTempC : Offset := 0x028#12
def offPayload : Offset := 0x02C#12
def offScanCount : Offset := 0x030#12
def offPresent0 : Offset := 0x034#12
def offPresent1 : Offset := 0x038#12
def offPresent2 : Offset := 0x03C#12
def offPresent3 : Offset := 0x040#12
def offPins : Offset := 0x044#12
/-- BUF[i], at 0x100 + 4*i (R42). -/
def offBuf (i : Nat) : Offset := BitVec.ofNat 12 (0x100 + 4 * i)

/-- A host access is legal only at a multiple of 4 (R78). -/
def aligned (off : Offset) : Bool := decide (off.toNat % 4 = 0)

/-- The BUF index an aligned offset names, if any (R42). -/
def bufIndex (off : Offset) : Option Nat :=
  if 0x100 ≤ off.toNat ∧ off.toNat < 0x100 + 4 * Config.bufSize then some ((off.toNat - 0x100) / 4) else none

/-- An aligned offset of the register map (R26); every other aligned offset is reserved (R76). -/
def isRegister (off : Offset) : Bool := decide (off.toNat ≤ 0x044) || (bufIndex off).isSome

/-! ### HRD -/

/-- What a register holds for the HOST while BUSY = 0 (R27 to R42); `free` is what an unspecified field shows (U7). A
reserved offset reads 0 (R76). -/
def registerValue (free : Word) (off : Offset) (s : State) : Word :=
  if off = offCmd then s.cmd
  else if off = offStatus then statusWord s
  else if off = offResult then resultWord s.result
  else if off = offTbudget then s.tbudget
  else if off = offTbShort then s.tbShort
  else if off = offTbLong then s.tbLong
  else if off = offRdStatus then rdStatusWord free s
  else if off = offHumRaw then (if s.rdValid then fieldAt 0 s.humRaw else fieldAt 0 (free.setWidth 14))
  else if off = offTempRaw then (if s.rdValid then fieldAt 0 s.tempRaw else fieldAt 0 (free.setWidth 14))
  else if off = offHumPct then (if s.rdValid then s.humPct else free)
  else if off = offTempC then (if s.rdValid then s.tempC else free)
  else if off = offPayload then (if s.payValid then payloadWord s.pay else free)
  else if off = offScanCount then fieldAt 0 s.count
  else if off = offPresent0 then presentWord 0 s
  else if off = offPresent1 then presentWord 1 s
  else if off = offPresent2 then presentWord 2 s
  else if off = offPresent3 then presentWord 3 s
  else if off = offPins then pinsWord s
  else
    match bufIndex off with
    | some i => fieldAt 0 (bufByte s i)
    | none => 0#32

/-- What a host read returns (R195, R199): while BUSY = 1 only bits 0 and 1 of STATUS are specified, and a reserved
offset, which is no register, still reads 0. -/
def hostValue (off : Offset) (s : State) : Word :=
  let free := Config.freeWord s.draws
  if s.busy then
    (if off = offStatus then busyStatusWord free else if isRegister off then free else 0#32)
  else registerValue free off s

/-- HRD(off) (R195): no register changes; the value read is recorded for the HOST. -/
def hostRead (off : Offset) (s : State) : State :=
  { s with reads := s.reads ++ [(off, hostValue off s)], draws := s.draws + 1 }

/-! ### HWR -/

/-- HWR(off, v) of an offset other than CMD (R196). While BUSY = 1 it does nothing (R199). -/
def hostWrite (off : Offset) (v : Word) (s : State) : State :=
  if s.busy then s
  else if off = offTbudget then { s with tbudget := v }
  else if off = offTbShort then { s with tbShort := v }
  else if off = offTbLong then { s with tbLong := v }
  else
    match bufIndex off with
    | some i => bufStore i (v.setWidth 8) s
    | none => s

/-! ### Reset (R240) -/

/-- The reset input: every piece of the block's state takes its reset value, also in the middle of a command. What
belongs to the outside stays: the inputs to come, what the HOST has read, ENV's answers to come. Unspecified values are
new ones after it (R241). -/
def resetBlock (s : State) : State :=
  { State.reset with
    inbox   := s.inbox
    caller  := s.caller
    reads   := s.reads
    flagsIn := s.flagsIn
    rxIn    := s.rxIn
    draws   := s.draws
    epoch   := s.epoch + 1 }

/-! ### Pseudo-instructions (R113), as the inputs a HOST makes -/

/-- `SETBUF i, b`. -/
def setBuf (i : Nat) (b : Byte) : List Input := [.hwr (offBuf i) (b.setWidth 32)]

/-- `SETBUDGET n`. -/
def setBudget (n : Word) : List Input := [.hwr offTbudget n]

/-- A command: the write of its word to CMD (R112). -/
def issue (i : Instr) : List Input := [.hwr offCmd (encode i)]

/-- The `SETBUF` lines of `XWRITE`, from index `i`. -/
def setBufs : Nat → List Byte → List Input
  | _, [] => []
  | i, b :: bs => setBuf i b ++ setBufs (i + 1) bs

/-- `XWRITE addr, [b0, ...], budget`. -/
def xwrite (a : BusAddr) (bs : List Byte) (budget : Word) : List Input :=
  setBudget budget ++ setBufs 0 bs ++ issue (.write a (BitVec.ofNat 8 bs.length)) ++ [.wait, .hrd offResult]

/-- `XREAD addr, n, budget`, up to the read of RESULT. -/
def xread (a : BusAddr) (n : Byte) (budget : Word) : List Input :=
  setBudget budget ++ issue (.read a n) ++ [.wait, .hrd offResult]

/-- The rest of `XREAD`, from the RESULT value read: the received bytes if CODE = 0. -/
def xreadTail (n : Byte) (result : Word) : List Input :=
  if result.extractLsb' 0 4 = 0#4 then (List.range n.toNat).map (fun i => .hrd (offBuf i)) else []

/-- `XCLEAR`. -/
def xclear : List Input := issue .forceClear ++ [.wait] ++ issue .reinit ++ [.wait]

/-- `XMEASURE`, up to the read of RESULT. -/
def xmeasure : List Input := issue .measure ++ [.wait, .hrd offResult]

/-- The rest of `XMEASURE`, from the RESULT value read: the reading if CODE = 0, REINIT if STAGE = 2. -/
def xmeasureTail (result : Word) : List Input :=
  (if result.extractLsb' 0 4 = 0#4 then
    [.hrd offRdStatus, .hrd offHumRaw, .hrd offTempRaw, .hrd offHumPct, .hrd offTempC]
  else []) ++
  (if result.extractLsb' 4 3 = 2#3 then issue .reinit ++ [.wait] else [])

/-- Steps 2 to 4 of the boot sequence (R243); step 1 is outside the block, step 5 is the host's loop (R205). -/
def bootSequence (budget short long : Word) (scan : Bool) : List Input :=
  setBudget budget ++ [.hwr offTbShort short, .hwr offTbLong long] ++ issue .reinit ++ [.wait] ++
    (if scan then issue .scan ++ [.wait, .hrd offScanCount] else [])

end Sys2Proof.Machine
end

