-- ==== Sys2Proof/Machine/Micro.lean ====
section
/-! DEFINITION. The CORE one primitive at a time (R8, R9). A step starts where the last primitive ended: it makes the
assignments and tests of the pseudocode up to the next primitive, and then that primitive with its one event, so that an
assignment is part of the step of the primitive that follows it (R8). It is the same machine as the procedures of the
family files, cut at the primitives; a HOST that polls sees it (R83, R199). -/

namespace Sys2Proof.Machine

/-! ### The poll (R141) -/

/-- `LU.Sample()` of a poll; the position keeps what the sample decides. -/
def pollSample (c : PollCond) (watch : Bool) (u : Option PollResult → Upc) (s : State) : State :=
  goTo (u (sampleOutcome c watch s)) (luSample s)

/-- A poll starts: CNT <- B, and the first sample. -/
def beginPoll (c : PollCond) (watch : Bool) (u : Option PollResult → Upc) (s : State) : State :=
  pollSample c watch u { s with cnt := s.xb }

/-- What follows a sample that decided `o`: the poll's result, or CNT <- CNT - 1 and then the timeout or the next sample. -/
def afterSample (c : PollCond) (watch : Bool) (u : Option PollResult → Upc) (o : Option PollResult)
    (ready nack timeout : State → State) (s : State) : State :=
  match o with
  | some .ready => ready s
  | some .nack => nack s
  | some .timeout => timeout s
  | none =>
    if (countDown s).cnt = 0#32 then timeout (countDown s) else pollSample c watch u (countDown s)

/-! ### The phases of a transaction, each up to its first primitive -/

/-- A transaction starts: its latches (R150), ESTATE <- E_WAITFREE and the first sample (R142). -/
def startXact (d : Dir) (a : BusAddr) (l : Byte) (b : Word) (sel : XSel) (s : State) : State :=
  beginPoll .busFree false .wfSmp { latchXact d a l b sel s with estate := .waitFree }

/-- StartPhase (R143). -/
def toStart (s : State) : State :=
  match s.xdir with
  | .write => goTo .stStart (luStart { s with estate := .start })
  | .read => goTo .stAck (luSetAck true { s with estate := .start })

/-- AddressPhase (R144). -/
def toAddress (s : State) : State :=
  goTo .adTx (luTxWrite (addressByte s.xaddr s.xdir) { s with estate := .addr })

/-- The next iteration of the data loop (R150, R145, R146), or StopPhase (R147). -/
def toData (s : State) : State :=
  if s.xidx.toNat < s.xlen.toNat then
    match s.xdir with
    | .write => goTo .txByte (luTxWrite (arrayByte s.xsel s s.xidx.toNat) s)
    | .read =>
      if s.xidx.toNat + 1 = s.xlen.toNat then goTo .rxAck (luSetAck false s)
      else beginPoll .rxReady false .rxSmp s
  else goTo .spStop (luStop { s with estate := .stop })

/-- A data byte is complete: XIDX <- i + 1 (R150). -/
def byteDone (s : State) : State := toData (setXidx (s.xidx.toNat + 1) s)

/-- `LU.RxRead()` (R146); the position keeps the byte. -/
def toRxRead (s : State) : State := goTo (.rxByte (nextRx s)) (luRxRead s)

/-- NackExit (R148). -/
def toNackExit (s : State) : State := goTo .nkClear (luClearNack s)

/-! ### Recovery, each part up to its first primitive (R131) -/

/-- `ForceClear()` starts. -/
def toForceClear (s : State) : State := goTo .fcDrive (pinDrive true true { s with desync := true })

/-- Pulse `k` starts. -/
def toPulse (k : Nat) (s : State) : State := goTo .fcLow (pinScl false { s with pulse := BitVec.ofNat 4 k })

/-- After a pulse: the next one, or the settle delay. -/
def pulseDone (s : State) : State :=
  if s.pulse.toNat < Config.nPulses then toPulse (s.pulse.toNat + 1) s
  else goTo .fcSettle (dly Config.tClearSettle { s with pulse := 0#4, rstate := .settle })

/-- After `ForceClear()`: FORCE_CLEAR completes, MEASURE waits T_RECOVER_SETTLE (R130, R171). -/
def recoveryDone (s : State) : State :=
  if s.opcur = 4#4 then goTo .recoverDly (dly Config.tRecoverSettle { s with rstate := .idle })
  else complete okResult { s with rstate := .idle }

/-! ### What follows a transaction: the caller decides (R216) -/

/-- The probe of address `a` starts (R190). -/
def startProbe (a : BusAddr) (s : State) : State :=
  startXact .write a 1#8 s.opShort (.const Config.scanProbe) { s with saddr := a }

/-- The next probe of a scan, or its completion (R190). -/
def afterProbe (s : State) : State :=
  if s.saddr.toNat < Config.addrMax then startProbe (s.saddr + 1#7) s else complete okResult s

/-- A command completes with an outcome (R197). -/
def finish (out : Result × State) : State := complete out.1 out.2

/-- MEASURE after its trigger (R171, R172). -/
def afterTrigger (c : Code) (s : State) : State :=
  match c with
  | .ok => goTo .convDly (dly Config.tConv { s with dstate := .await })
  | c => finish (failMeasure c .trigger s)

/-- MEASURE after its read (R171, R174). -/
def afterRead (c : Code) (s : State) : State :=
  match c with
  | .ok => finish (decodePayload s)
  | _ => toForceClear s

/-- A transaction returned `c` to the command in progress, which OPCUR names (R46, R201). -/
def xactDone (c : Code) (s : State) : State :=
  let s1 : State := { s with xcode := c }
  if s1.opcur = 4#4 then
    (if s1.dstate = .triggered then afterTrigger c s1 else afterRead c s1)
  else if s1.opcur = 5#4 then afterProbe (notePresent c s1)
  else finish (⟨c, .none, s1.xidx⟩, s1)

/-- The plain failure exit (R149), then what follows the transaction. -/
def plainExit (c : Code) (s : State) : State := xactDone c (failPlain c s).2

/-- The NACK exit's code: the phase it happened in (R144, R145, R212). -/
def nackCode (s : State) : Code := if s.estate = .addr then .addressNack else .dataNack

/-- The first primitive of a command that was accepted. -/
def firstPrimitive (i : Instr) (s : State) : State :=
  match i with
  | .write a l => startXact .write a l s.opBudget .buf s
  | .read a l => startXact .read a l s.opBudget .buf s
  | .forceClear => toForceClear s
  | .measure => startXact .write Config.sensorAddr 1#8 s.opShort (.const Config.triggerByte) s
  | .scan => startProbe (BitVec.ofNat 7 Config.addrMin) s
  | .reinit => goTo .riRelease (pinRelease s)

/-- One step of the CORE (R9): from the end of its last primitive to the end of the next. -/
def coreStep (s : State) : Host.Outcome State Fault Refusal :=
  match s.upc with
  | .idle => .fault .noCommandInProgress
  | .accepted i => .next (firstPrimitive i s)
  | .wfSmp o => .next (afterSample .busFree false .wfSmp o toStart toStart (fun s' => goTo .wfStop (luStop s')) s)
  | .wfStop => .next (goTo .wfDly (dly Config.tBusfreeRetry s))
  | .wfDly => .next (goTo (.wfRecheck (nextFlags s).busy) (luSample s))
  | .wfRecheck busy => .next (if busy then plainExit .busStuck s else toStart s)
  | .stAck => .next (goTo .stStart (luStart s))
  | .stStart => .next (beginPoll .txReady false .stSmp s)
  | .stSmp o => .next (afterSample .txReady false .stSmp o toAddress toAddress (plainExit .startTimeout) s)
  | .adTx => .next (beginPoll .txReady true .adSmp s)
  | .adSmp o =>
    .next (afterSample .txReady true .adSmp o (fun s' => toData { s' with estate := .data }) toNackExit
      (plainExit .addressTimeout) s)
  | .txByte => .next (beginPoll .txReady true .txSmp s)
  | .txSmp o => .next (afterSample .txReady true .txSmp o byteDone toNackExit (plainExit .dataTimeout) s)
  | .rxAck => .next (beginPoll .rxReady false .rxSmp s)
  | .rxSmp o => .next (afterSample .rxReady false .rxSmp o toRxRead toRxRead (plainExit .dataTimeout) s)
  | .rxByte b => .next (byteDone (arrayStore s.xsel s.xidx.toNat b s))
  | .spStop => .next (goTo .spDly (dly Config.tStopSettle s))
  | .spDly => .next (xactDone .ok { s with estate := .done })
  | .nkClear => .next (goTo .nkStop (luStop s))
  | .nkStop => .next (goTo .nkDly (dly Config.tNackSettle s))
  | .nkDly => .next (xactDone (nackCode s) { s with estate := .failed })
  | .fcDrive => .next (toPulse 1 { s with rstate := .pulse })
  | .fcLow => .next (goTo .fcLowDly (dly Config.tEdge s))
  | .fcLowDly => .next (goTo .fcHigh (pinScl true s))
  | .fcHigh => .next (goTo .fcHighDly (dly Config.tEdge s))
  | .fcHighDly => .next (pulseDone s)
  | .fcSettle => .next (recoveryDone s)
  | .convDly =>
    .next (startXact .read Config.sensorAddr Config.payloadLen s.opLong .pay { s with dstate := .reading })
  | .recoverDly => .next (finish (failMeasure s.xcode .read s))
  | .riRelease => .next (goTo .riReinit (luReinit s))
  | .riReinit => .next (complete okResult { s with desync := false, estate := .idle })

end Sys2Proof.Machine
end

