-- ==== Sys2Proof/Machine/CmdWrite.lean ====
section
/-! DEFINITION. The write to CMD (R197, R198): decoding and dispatch of the command word, the outcome of a word that
decodes to no command; and what each input of the outside does to the block. -/

namespace Sys2Proof.Machine

/-- A word that decodes to no command (R103, R110): ignored while BUSY = 1 (R198), refused at once otherwise (R197). -/
def cmdIllegal (w : Word) (s : State) : State := if s.busy then overrun s else refuseWord (takeWord w s)

/-- `CmdWrite(w)` (R197, R198). -/
def cmdWrite (w : Word) (s : State) : Host.Outcome State Fault Refusal :=
  match decode w with
  | .ok i => exec i s
  | .error _ => .next (cmdIllegal w s)

/-- HWR (R196) with the alignment rule R78. -/
def hwr (off : Offset) (v : Word) (s : State) : Host.Outcome State Fault Refusal :=
  if aligned off then (if off = offCmd then cmdWrite v s else .next (hostWrite off v s))
  else .refused (.misalignedAccess off)

/-- HRD (R195) with the alignment rule R78. -/
def hrd (off : Offset) (s : State) : Host.Outcome State Fault Refusal :=
  if aligned off then .next (hostRead off s) else .refused (.misalignedAccess off)

/-- No access of the HOST lands now: the CORE steps if a command is in progress (R83: while BUSY = 0 it takes none). -/
def coreTurn (s : State) : Host.Outcome State Fault Refusal := if s.busy then coreStep s else .next s

/-- The next input of the outside; `rest` is what comes after it. WAIT stands at the head until BUSY = 0 and then reads
STATUS: the reads it makes before that return bit 0 = 1 and change nothing (R113, R195, R199). -/
def input (x : Input) (rest : List Input) (s : State) : Host.Outcome State Fault Refusal :=
  match x with
  | .hrd off => hrd off { s with inbox := rest }
  | .hwr off v => hwr off v { s with inbox := rest }
  | .wait => if s.busy then coreStep s else .next (hostRead offStatus { s with inbox := rest })
  | .yield => coreTurn { s with inbox := rest }
  | .rst => .next (resetBlock { s with inbox := rest })

end Sys2Proof.Machine
end

