-- ==== Sys2Proof/Machine/Step.lean ====
section
/-! DEFINITION. One step of the machine: one atomic action of the HOST, of the reset input or of the CORE (R9, R83). -/

namespace Sys2Proof.Machine

/-- The next input of the outside if there is one; otherwise the CORE, which steps only while BUSY = 1. A command written
by a HOST that blocks runs whole in the step of its write (log entry 1). -/
def step (s : State) : Host.Outcome State Fault Refusal :=
  match s.inbox with
  | [] => coreTurn s
  | x :: rest => input x rest s

/-- The state in which the next step is the HOST's write of the command word `w` to CMD, taken (log entry 8): the write
stands first among the inputs and no command is in progress. -/
def State.withFetchWord (s : State) (nbits w : Nat) : State :=
  { s with inbox := .hwr offCmd (BitVec.ofNat 32 (w % 2 ^ nbits)) :: s.inbox, busy := false, upc := .idle }

end Sys2Proof.Machine
end

