-- ==== Sys2Proof/Safety.lean ====
section
/-! DEFINITION. What counts as a safe run: the step neither faults nor refuses; the shape of TRACE (R89) as an automaton
over its events; and the invariants of the block's state that the statements name. -/

namespace Sys2Proof.Safety

open Sys2Proof.Machine

/-! ### ENV's answers to come (R90) -/

/-- The `k`-th answer ENV gives from `s` on to `LU.Sample()`. -/
def flagsAhead (s : State) (k : Nat) : Flags :=
  (s.flagsIn[k]?).getD (flagsOfBits (Config.flagsAnswer s.epoch (s.nSmp + k)))

/-- The `k`-th answer ENV gives from `s` on to `LU.RxRead()`. -/
def rxAhead (s : State) (k : Nat) : Byte := (s.rxIn[k]?).getD (Config.rxAnswer s.epoch (s.nRx + k))

/-! ### What a list of events shows -/

/-- The bytes handed to the line unit, in order. -/
def txBytes : List Event → List Byte
  | [] => []
  | .tx b :: es => b :: txBytes es
  | _ :: es => txBytes es

/-- The bytes received from the line unit, in order. -/
def rxBytes : List Event → List Byte
  | [] => []
  | .rx b :: es => b :: rxBytes es
  | _ :: es => rxBytes es

/-- The bytes handed to the line unit: those before the first start condition, and for each start condition, in order,
those between it and the next. -/
def txByStart : List Event → List Byte × List (List Byte)
  | [] => ([], [])
  | .start :: es => ([], (txByStart es).1 :: (txByStart es).2)
  | .tx b :: es => (b :: (txByStart es).1, (txByStart es).2)
  | _ :: es => txByStart es

/-- How often an event occurs. -/
def occurs (e : Event) (es : List Event) : Nat := es.countP (fun x => decide (x = e))

/-- An event on the two pins (R74). -/
def isPinEvent : Event → Bool
  | .pinDrv _ _ => true
  | .scl _ => true
  | .pinRel => true
  | _ => false

/-- How many events on the pins there are. -/
def pinEvents (es : List Event) : Nat := es.countP isPinEvent

/-- The events of one pulse of the recovery procedure (R131). -/
def pulseEvents : List Event := [.scl false, .dly Config.tEdge, .scl true, .dly Config.tEdge]

/-- The 38 events of `ForceClear()` (R131). -/
def forceClearEvents : List Event :=
  [.pinDrv true true] ++ (List.replicate Config.nPulses pulseEvents).flatten ++ [.dly Config.tClearSettle]

/-! ### The shape of TRACE (R89) -/

/-- What the automaton remembers: whether a segment is open, whether the pins are taken, the last event, and the events
that must come next. -/
structure TraceState where
  inCmd  : Bool
  pinned : Bool
  last   : Option Event
  owed   : List Event
deriving DecidableEq, Repr

def TraceState.start : TraceState := ⟨false, false, none, []⟩

/-- Whether `e` may come next by rule R89. -/
def allowed (st : TraceState) (e : Event) : Bool :=
  (match st.owed with
    | [] => true
    | o :: _ => decide (o = e)) &&
  (match e with
    | .cmd _ => !st.inCmd
    | .ret r =>
      st.inCmd &&
        (decide (r.code ≠ .illegalCommand) ||
          (match st.last with
            | some (.cmd _) => true
            | _ => false))
    | .scl _ => st.inCmd && st.pinned
    | .rx _ =>
      st.inCmd &&
        (match st.last with
          | some (.smp f) => f.rxrdy
          | _ => false)
    | .nackClr =>
      st.inCmd &&
        (match st.last with
          | some (.smp f) => f.nack
          | _ => false)
    | _ => st.inCmd)

/-- The automaton's state after `e`. -/
def traceNext (st : TraceState) (e : Event) : TraceState where
  inCmd :=
    match e with
    | .cmd _ => true
    | .ret _ => false
    | _ => st.inCmd
  pinned :=
    match e with
    | .pinDrv _ _ => true
    | .pinRel => false
    | _ => st.pinned
  last := some e
  owed :=
    match e with
    | .nackClr => [.stop, .dly Config.tNackSettle]
    | _ => st.owed.tail

/-- Run the automaton over events; none when one of them is not allowed. -/
def traceRun : TraceState → List Event → Option TraceState
  | st, [] => some st
  | st, e :: es => if allowed st e then traceRun (traceNext st e) es else none

/-! ### Invariants -/

/-- A command is in progress exactly when the CORE has a position in it (R45, R83); a command that has just been accepted
is the one CMD and OPCUR name (R27, R46). -/
def PositionInv (s : State) : Prop :=
  (s.busy = true ↔ s.upc ≠ .idle) ∧ ∀ i, s.upc = .accepted i → s.cmd = encode i ∧ s.opcur = opField (encode i)

/-- The buffer is in canonical form and holds existing bytes only. -/
def BufferInv (s : State) : Prop := Memory.wf s.buf = true

/-- PIN_OVR = 1 only while DESYNC = 1 (R28: set and cleared by the same rules); inside REINIT the pins are released first. -/
def PinsInv (s : State) : Prop :=
  (s.pinOvr = true → s.desync = true) ∧ (s.upc = .riRelease ∨ s.upc = .riReinit → s.pinOvr = false)

/-- What a valid reading is (R25, R33, R36, R37): never NotReady, the two values computed from the two raw fields. -/
def ReadingInv (s : State) : Prop :=
  s.rdValid = true →
    s.statusCode ≠ .notReady ∧ s.humPct = numHum s.humRaw ∧ s.tempC = clampTemp (numTemp s.tempRaw)

/-- A scan in progress is inside one of its probes. -/
def scanning (s : State) : Prop := s.busy = true ∧ s.opcur = 5#4 ∧ ∀ i, s.upc ≠ .accepted i

/-- The scan file (R39, R40, R190): the reserved addresses are never present, COUNT is at most 126 and 0 when a scan has
just been accepted; inside a scan SADDR is a valid address and COUNT counts earlier ones. -/
def ScanInv (s : State) : Prop :=
  s.present.getLsbD 0 = false ∧ s.present.getLsbD 127 = false ∧ s.count.toNat ≤ 126 ∧
    (s.upc = .accepted .scan → s.count = 0#7) ∧
    (scanning s → 1 ≤ s.saddr.toNat ∧ s.saddr.toNat ≤ 126 ∧ s.count.toNat < s.saddr.toNat)

/-- TRACE has the shape of rule R89, and the automaton over it agrees with the block: a segment is open exactly while a
command is in progress, the pins are taken exactly while PIN_OVR = 1, and where the CORE stands fits the last event. No
transaction returns IllegalCommand. -/
def TraceInv (s : State) : Prop :=
  PositionInv s ∧ s.xcode ≠ .illegalCommand ∧
  ∃ st, traceRun .start s.trace = some st ∧ st.inCmd = s.busy ∧ st.pinned = s.pinOvr ∧
    match s.upc with
    | .adSmp (some .nack) => st.owed = [] ∧ ∃ f, st.last = some (.smp f) ∧ f.nack = true
    | .txSmp (some .nack) => st.owed = [] ∧ ∃ f, st.last = some (.smp f) ∧ f.nack = true
    | .rxSmp (some _) => st.owed = [] ∧ ∃ f, st.last = some (.smp f) ∧ f.rxrdy = true
    | .nkClear => st.owed = [.stop, .dly Config.tNackSettle]
    | .nkStop => st.owed = [.dly Config.tNackSettle]
    | .fcDrive => st.owed = [] ∧ st.pinned = true
    | .fcLow => st.owed = [] ∧ st.pinned = true
    | .fcLowDly => st.owed = [] ∧ st.pinned = true
    | .fcHigh => st.owed = [] ∧ st.pinned = true
    | .fcHighDly => st.owed = [] ∧ st.pinned = true
    | _ => st.owed = []

/-- Positions inside a transaction, where the latches of R50 are in use. -/
def inXact (u : Upc) : Bool :=
  match u with
  | .wfSmp _ | .wfStop | .wfDly | .wfRecheck _ | .stAck | .stStart | .stSmp _ | .adTx | .adSmp _ | .txByte | .txSmp _
  | .rxAck | .rxSmp _ | .rxByte _ | .spStop | .spDly | .nkClear | .nkStop | .nkDly => true
  | _ => false

/-- Positions after a sample of a poll. -/
def polling (u : Upc) : Bool :=
  match u with
  | .wfSmp _ | .stSmp _ | .adSmp _ | .txSmp _ | .rxSmp _ => true
  | _ => false

/-- Positions inside the iteration of a data byte. -/
def inByte (u : Upc) : Bool :=
  match u with
  | .txByte | .txSmp _ | .rxAck | .rxSmp _ | .rxByte _ => true
  | _ => false

/-- Positions inside the nine pulses. -/
def pulsing (u : Upc) : Bool :=
  match u with
  | .fcLow | .fcLowDly | .fcHigh | .fcHighDly => true
  | _ => false

/-- The latched budgets the command at an accepted position needs are not 0 (R23, R107). -/
def budgetsLatched (s : State) : Prop :=
  match s.upc with
  | .accepted (.write _ _) => s.opBudget ≠ 0#32
  | .accepted (.read _ _) => s.opBudget ≠ 0#32
  | _ => True

/-- No counter wraps (R45, R141, R152): CNT is at least 1 after every sample of a poll, where it is decremented next; XIDX
is at most LEN; PULSE is 1 to 9 inside the pulses. -/
def CountersInv (s : State) : Prop :=
  (inXact s.upc = true → s.xb ≠ 0#32 ∧ s.xidx.toNat ≤ s.xlen.toNat) ∧
  (inByte s.upc = true → s.xidx.toNat < s.xlen.toNat) ∧
  (polling s.upc = true → s.cnt ≠ 0#32) ∧
  (pulsing s.upc = true → 1 ≤ s.pulse.toNat ∧ s.pulse.toNat ≤ Config.nPulses) ∧
  budgetsLatched s ∧
  (s.busy = true → s.opcur = 4#4 → s.opShort ≠ 0#32 ∧ s.opLong ≠ 0#32) ∧
  (s.busy = true → s.opcur = 5#4 → s.opShort ≠ 0#32) ∧
  (s.upc = .convDly → s.opLong ≠ 0#32)

/-- The three state machines at each position of the CORE (R47, R48, R49): ESTATE names the phase, RSTATE and PULSE the
part of `ForceClear()`, DSTATE the stage of MEASURE: the trigger is the write transaction, the reading the read. -/
def StatesInv (s : State) : Prop :=
  (match s.upc with
    | .wfSmp _ => s.estate = .waitFree
    | .wfStop => s.estate = .waitFree
    | .wfDly => s.estate = .waitFree
    | .wfRecheck _ => s.estate = .waitFree
    | .stAck => s.estate = .start
    | .stStart => s.estate = .start
    | .stSmp _ => s.estate = .start
    | .adTx => s.estate = .addr
    | .adSmp _ => s.estate = .addr
    | .txByte => s.estate = .data
    | .txSmp _ => s.estate = .data
    | .rxAck => s.estate = .data
    | .rxSmp _ => s.estate = .data
    | .rxByte _ => s.estate = .data
    | .spStop => s.estate = .stop
    | .spDly => s.estate = .stop
    | .nkClear => s.estate = .addr ∨ s.estate = .data
    | .nkStop => s.estate = .addr ∨ s.estate = .data
    | .nkDly => s.estate = .addr ∨ s.estate = .data
    | .accepted .measure => s.dstate = .triggered
    | .convDly => s.dstate = .await ∧ s.estate = .done
    | .recoverDly => s.dstate = .reading ∧ s.estate = .failed
    | _ => True) ∧
  s.rstate = (if pulsing s.upc then .pulse else if s.upc = .fcSettle then .settle else .idle) ∧
  (pulsing s.upc = false → s.pulse = 0#4) ∧
  (s.busy = true → s.opcur = 4#4 → inXact s.upc = true →
    (s.dstate = .triggered ∧ s.xdir = .write) ∨ (s.dstate = .reading ∧ s.xdir = .read)) ∧
  (s.busy = true → s.opcur = 4#4 → (s.upc = .fcDrive ∨ pulsing s.upc = true ∨ s.upc = .fcSettle) →
    s.dstate = .reading ∧ s.estate = .failed)

/-! ### Premises and vocabulary of the statements -/

/-- A command of a HOST that waits for it is accepted: BUSY = 0 and the operand check of rule R107 passes. -/
def Accepts (i : Instr) (s : State) : Prop := s.busy = false ∧ s.caller = .blocks ∧ operandsLegal i s = true

/-- A sample "bus free, transmit-ready, no NACK, receive-ready": ENV ideal (95_test_vectors.md). -/
def idealFlags : Flags := ⟨false, true, false, true⟩

/-- w[31:28] as a number (R101). -/
def wordOp (w : Word) : Nat := w.toNat / 0x10000000

/-- w[22:16] as a number (R104). -/
def wordAddr (w : Word) : Nat := w.toNat / 0x10000 % 0x80

/-- w[15:8] as a number (R105). -/
def wordLen (w : Word) : Nat := w.toNat / 0x100 % 0x100

/-- Rule R110, as its text lists the illegal words, on numbers. -/
def IllegalWord (w : Word) (s : State) : Prop :=
  wordOp w = 0 ∨ 7 ≤ wordOp w ∨ (wordOp w = 5 ∧ Config.hasScan = false) ∨
  ((wordOp w = 1 ∨ wordOp w = 2) ∧ (w.toNat / 0x800000 % 0x20 ≠ 0 ∨ w.toNat % 0x100 ≠ 0)) ∨
  ((3 ≤ wordOp w ∧ wordOp w ≤ 6) ∧ w.toNat % 0x10000000 ≠ 0) ∨
  ((wordOp w = 1 ∨ wordOp w = 2) ∧
    (wordAddr w = 0 ∨ wordAddr w = 0x7F ∨ wordLen w = 0 ∨ Config.bufSize < wordLen w ∨ s.tbudget = 0#32)) ∨
  (wordOp w = 4 ∧ (s.tbShort = 0#32 ∨ s.tbLong = 0#32)) ∨
  (wordOp w = 5 ∧ s.tbShort = 0#32)

/-- The offsets the HOST can write besides CMD (R26, R196). -/
def writableOffset (off : Offset) : Prop :=
  off = offTbudget ∨ off = offTbShort ∨ off = offTbLong ∨ (0x100 ≤ off.toNat ∧ off.toNat < 0x180)

/-- The failure codes a write transaction can return (R151). -/
def writeFailures : List Code :=
  [.busStuck, .startTimeout, .addressTimeout, .addressNack, .dataTimeout, .dataNack]

/-- The failure codes a read transaction can return (R151). -/
def readFailures : List Code := [.busStuck, .startTimeout, .addressTimeout, .addressNack, .dataTimeout]

/-- `n` steps of the machine, stopping at the first fault or refusal. -/
def steps : Nat → State → Host.Outcome State Fault Refusal
  | 0, s => .next s
  | n + 1, s =>
    match step s with
    | .next s' => steps n s'
    | .fault r => .fault r
    | .refused r => .refused r

/-- How far the value of a finite binary32 pattern is from `n / d`, compared with 2^-16 (R181). -/
def within (w : Word) (n : Int) (d : Nat) : Prop :=
  ((floatValue w).num * d - n * (floatValue w).den).natAbs * 65536 ≤ (floatValue w).den * d

/-- Neither infinite, nor a NaN, nor subnormal (R181). -/
def normalFloat (w : Word) : Prop := (w.extractLsb' 23 8) ≠ 0#8 ∧ (w.extractLsb' 23 8) ≠ 255#8

end Sys2Proof.Safety
end

