-- ==== Sys2Proof/Certificates/Slice0/Obligations.lean ====
section
/-! DEFINITION. The statements for the provers, from the spec's numbered rules. A docstring names the rule, and the log
entry where a clause rests on a choice of the model. `exec` stands for the meaning of a command. -/

open Sys2Proof Sys2Proof.Machine Sys2Proof.Safety

/-! ### Encoding -/

/-- 30_encoding.md R101, R102, R103: no bit of an encoding is dropped. -/
def Obligations.EncodeThenDecodeIsIdentity : Prop :=
  ∀ i : Instr, i.wellFormed = true → decode (encode i) = .ok i

/-- R103, R115: every command has one word. -/
def Obligations.DecodedWordIsTheEncoding : Prop :=
  ∀ (w : Word) (i : Instr), decode w = .ok i → encode i = w

/-- Words of 95_test_vectors.md V-E1 to V-E11 and V-E16 to V-E19. -/
def Obligations.TableWordsDecode : Prop :=
  decode 0x10440100#32 = .ok (.write 0x44#7 1#8) ∧ decode 0x20440400#32 = .ok (.read 0x44#7 4#8) ∧
  decode 0x207E2000#32 = .ok (.read 0x7E#7 32#8) ∧ decode 0x30000000#32 = .ok .forceClear ∧
  decode 0x40000000#32 = .ok .measure ∧ decode 0x50000000#32 = .ok .scan ∧ decode 0x60000000#32 = .ok .reinit ∧
  decode 0x00000000#32 = .error .reservedOpcode ∧ decode 0x70000000#32 = .error .reservedOpcode ∧
  decode 0x10440101#32 = .error .mustBeZero ∧ decode 0x18440100#32 = .error .mustBeZero ∧
  decode 0x10C40100#32 = .error .mustBeZero ∧ decode 0x30000001#32 = .error .mustBeZero

/-- R108: bits 7:1 are the address, bit 0 the direction; the range; the examples; and it is the first byte every
transaction transmits, if it transmits any. That bit 0 is the direction is what R108 marks as the spec's own reading, from
general knowledge (G2, D27; log entry 15, PRESUMED). -/
def Obligations.AddressByteIsAddressThenDirection : Prop :=
  (∀ (a : BusAddr) (d : Dir),
    addressByte a d = (a.setWidth 8 <<< 1) ||| (match d with | .write => 0#8 | .read => 1#8) ∧
    (addressByte a d).extractLsb' 1 7 = a ∧ (addressByte a d).getLsbD 0 = decide (d = .read)) ∧
  (∀ (a : BusAddr) (d : Dir), 1 ≤ a.toNat → a.toNat ≤ 0x7E →
    0x02 ≤ (addressByte a d).toNat ∧ (addressByte a d).toNat ≤ 0xFD) ∧
  (∀ (d : Dir) (a : BusAddr) (l : Byte) (b : Word) (sel : XSel) (s : State),
    ∃ evs, (xact d a l b sel s).2.trace = s.trace ++ evs ∧
      (txBytes evs = [] ∨ ∃ rest, txBytes evs = addressByte a d :: rest)) ∧
  addressByte 0x44#7 .write = 0x88#8 ∧ addressByte 0x44#7 .read = 0x89#8 ∧ addressByte 0x01#7 .write = 0x02#8 ∧
  addressByte 0x7E#7 .read = 0xFD#8

/-! ### The step and the write to CMD -/

/-- R9, R197: the HOST's write of a word to CMD is the command's meaning; the step adds only that the input is consumed.
The same holds through the fetch the host's interface asks for. -/
def Obligations.StepRunsTheDecodedCommand : Prop :=
  ∀ (w : Word) (i : Instr) (rest : List Input) (s : State), decode w = .ok i → s.inbox = .hwr offCmd w :: rest →
    step s = exec i { s with inbox := rest } ∧
    ∀ u : State, step (u.withFetchWord 32 w.toNat) = exec i { u with busy := false, upc := .idle }

/-- R110 whole: exactly the words its text lists are illegal; each has the one outcome, and every other word is a command
whose operand check passes. -/
def Obligations.IllegalWordsAreRefused : Prop :=
  ∀ (w : Word) (s : State), s.busy = false →
    (IllegalWord w s →
      cmdWrite w s = .next
        { s with
          cmd := w, opcur := w.extractLsb' 28 4, done := true, cmdOvr := false,
          result := ⟨.illegalCommand, .none, 0#8⟩,
          trace := s.trace ++ [.cmd w, .ret ⟨.illegalCommand, .none, 0#8⟩] }) ∧
    (¬ IllegalWord w s → ∃ i, decode w = .ok i ∧ operandsLegal i s = true)

/-- R198 whole: a write to CMD while BUSY = 1 sets CMD_OVR and changes nothing else, whatever the word; CMD_OVR then stays
until the next write to CMD made while BUSY = 0, which clears it, or a reset (R240). -/
def Obligations.CmdWriteWhileBusyIsDropped : Prop :=
  (∀ (w : Word) (s : State), s.busy = true → cmdWrite w s = .next { s with cmdOvr := true }) ∧
  (∀ s t : State, step s = .next t → s.cmdOvr = true →
    (∀ w rest, s.inbox = .hwr offCmd w :: rest → s.busy = true) → (∀ rest, s.inbox ≠ .rst :: rest) →
    t.cmdOvr = true) ∧
  (∀ (w : Word) (s t : State), s.busy = false → cmdWrite w s = .next t → t.cmdOvr = false)

/-- R11, R216: no command stops the machine; every word written to CMD leaves a next state. -/
def Obligations.CommandsNeverStopTheMachine : Prop :=
  (∀ (i : Instr) (s : State), ∃ t, exec i s = .next t) ∧ ∀ (w : Word) (s : State), ∃ t, cmdWrite w s = .next t

/-- R197, R86, R30 for a HOST that polls (log entry 1, the model's choice): accept latches the command and its budgets at
once; BUSY = 1 is seen by the first access after it; the command is not over yet. The transaction latches are loaded in the
CORE's first step, before the command's first primitive (R8, R150). The position is the model's own field (log entry 6). -/
def Obligations.AcceptRaisesBusy : Prop :=
  ∀ (i : Instr) (s : State), s.busy = false → s.caller = .polls → operandsLegal i s = true →
    ∃ t u, exec i s = .next t ∧ t.busy = true ∧ t.done = false ∧ t.cmdOvr = false ∧ t.cmd = encode i ∧
      t.opcur = (encode i).extractLsb' 28 4 ∧ t.trace = s.trace ++ [.cmd (encode i)] ∧ t.result = s.result ∧
      t.buf = s.buf ∧ t.upc = .accepted i ∧ coreStep t = .next u ∧ u.busy = true ∧
      (match i with
        | .write a l => t.xb = s.tbudget ∧ u.xdir = .write ∧ u.xaddr = a ∧ u.xlen = l ∧ u.xb = s.tbudget ∧
            u.xidx = 0#8 ∧ u.estate = .waitFree ∧ u.cnt = s.tbudget
        | .read a l => t.xb = s.tbudget ∧ u.xdir = .read ∧ u.xaddr = a ∧ u.xlen = l ∧ u.xb = s.tbudget ∧
            u.xidx = 0#8 ∧ u.estate = .waitFree ∧ u.cnt = s.tbudget
        | .measure => t.opShort = s.tbShort ∧ t.opLong = s.tbLong ∧ t.rdValid = false ∧ t.dstate = .triggered ∧
            t.estate = s.estate ∧ u.estate = .waitFree ∧ u.xaddr = 0x44#7 ∧ u.xb = s.tbShort
        | .scan => t.opShort = s.tbShort ∧ t.present = 0#128 ∧ t.count = 0#7 ∧ t.saddr = s.saddr ∧ u.saddr = 1#7 ∧
            u.xaddr = 1#7 ∧ u.xb = s.tbShort
        | .forceClear => t.pinOvr = s.pinOvr ∧ t.desync = s.desync ∧ u.pinOvr = true ∧ u.desync = true
        | .reinit => t.pinOvr = s.pinOvr ∧ t.desync = s.desync ∧ u.pinOvr = false ∧ u.desync = s.desync)

/-! ### Host access -/

/-- R196, R195, R83, R256: a write of the HOST while BUSY = 0 stores into the register its offset names and does nothing
else; what it stores is what it reads next; every other offset reads as before. BUF[i] keeps bits 7:0. -/
def Obligations.WrittenRegisterReadsBack : Prop :=
  ∀ (v free : Word) (s : State), s.busy = false →
    hwr offTbudget v s = .next { s with tbudget := v } ∧
    hwr offTbShort v s = .next { s with tbShort := v } ∧
    hwr offTbLong v s = .next { s with tbLong := v } ∧
    (∀ i, i < Config.bufSize →
      ∃ t, hwr (offBuf i) v s = .next t ∧ t = { s with buf := t.buf } ∧ bufByte t i = v.extractLsb' 0 8 ∧
        ∀ j, j ≠ i → bufByte t j = bufByte s j) ∧
    (∀ off : Offset, aligned off = true → off ≠ offCmd → hwr off v s = .next (hostWrite off v s)) ∧
    (∀ off : Offset, hostValue off s = registerValue (Config.freeWord s.draws) off s) ∧
    registerValue free offTbudget (hostWrite offTbudget v s) = v ∧
    registerValue free offTbShort (hostWrite offTbShort v s) = v ∧
    registerValue free offTbLong (hostWrite offTbLong v s) = v ∧
    (∀ i, i < Config.bufSize → registerValue free (offBuf i) (hostWrite (offBuf i) v s) = v &&& 0xFF#32) ∧
    (∀ off off' : Offset, aligned off = true → aligned off' = true → off ≠ off' →
      registerValue free off' (hostWrite off v s) = registerValue free off' s) ∧
    (∀ off : Offset, hostWrite off v s =
      { s with
        tbudget := (hostWrite off v s).tbudget, tbShort := (hostWrite off v s).tbShort,
        tbLong := (hostWrite off v s).tbLong, buf := (hostWrite off v s).buf })

/-- R196, R76: a write to a read-only register or a reserved offset changes nothing. -/
def Obligations.ReadOnlyWriteIsIgnored : Prop :=
  ∀ (off : Offset) (v : Word) (s : State), off.toNat % 4 = 0 → off ≠ offCmd → ¬ writableOffset off →
    hwr off v s = .next s

/-- R199 whole: while BUSY = 1 a write of an operand register or BUF does nothing; a read of STATUS shows BUSY = 1 and DONE = 0
and is otherwise what a free value gives, as is a read of every other register. -/
def Obligations.BusyBlockIgnoresAccesses : Prop :=
  ∀ (s : State), s.busy = true →
    (∀ (off : Offset) (v : Word), off.toNat % 4 = 0 → off ≠ offCmd → hwr off v s = .next s) ∧
    ((hostValue offStatus s).getLsbD 0 = true ∧ (hostValue offStatus s).getLsbD 1 = false ∧
      ∀ k, 2 ≤ k → (hostValue offStatus s).getLsbD k = (Config.freeWord s.draws).getLsbD k) ∧
    (∀ off : Offset, isRegister off = true → off ≠ offStatus → hostValue off s = Config.freeWord s.draws)

/-- R195, R79, R83: a read changes no register, flag, buffer byte or event; only the record of what the HOST has read and
the counter of free values move. While BUSY = 0 it answers the register's value, at a reserved offset 0. -/
def Obligations.HostReadChangesNothing : Prop :=
  ∀ (off : Offset) (s : State), off.toNat % 4 = 0 →
    hrd off s = .next { s with reads := s.reads ++ [(off, hostValue off s)], draws := s.draws + 1 } ∧
    (s.busy = false → hostValue off s = registerValue (Config.freeWord s.draws) off s) ∧
    (s.busy = false → isRegister off = false → hostValue off s = 0#32)

/-- R78 (U9): an access at an offset that is not a multiple of 4 is no move of the HOST; the model refuses it by name. -/
def Obligations.MisalignedAccessIsRefused : Prop :=
  ∀ (off : Offset) (v : Word) (s : State), off.toNat % 4 ≠ 0 →
    hrd off s = .refused (.misalignedAccess off) ∧ hwr off v s = .refused (.misalignedAccess off)

/-- R28, R47, R48, R49: the fields of STATUS while BUSY = 0, and the numbers of the states. -/
def Obligations.StatusFieldsStandWhereTheyShould : Prop :=
  ∀ s : State,
    (statusWord s).getLsbD 0 = s.busy ∧ (statusWord s).getLsbD 1 = s.done ∧ (statusWord s).getLsbD 2 = s.desync ∧
    (statusWord s).getLsbD 3 = s.pinOvr ∧ (statusWord s).getLsbD 4 = s.cmdOvr ∧
    (statusWord s).getLsbD 5 = s.ackpol ∧ (statusWord s).extractLsb' 6 2 = 0#2 ∧
    (statusWord s).extractLsb' 8 4 = s.opcur ∧ (statusWord s).extractLsb' 12 4 = estateBits s.estate ∧
    (statusWord s).extractLsb' 16 4 = dstateBits s.dstate ∧ (statusWord s).extractLsb' 20 2 = rstateBits s.rstate ∧
    (statusWord s).extractLsb' 22 10 = 0#10 ∧ registerValue 0#32 offStatus s = statusWord s ∧
    ((statusWord s).extractLsb' 12 4).toNat =
      (match s.estate with
        | .idle => 0 | .waitFree => 1 | .start => 2 | .addr => 3 | .data => 4 | .stop => 5 | .done => 6 | .failed => 7) ∧
    ((statusWord s).extractLsb' 16 4).toNat =
      (match s.dstate with
        | .idle => 0 | .triggered => 1 | .await => 2 | .reading => 3 | .decoded => 4 | .failed => 5) ∧
    ((statusWord s).extractLsb' 20 2).toNat =
      (match s.rstate with
        | .idle => 0 | .pulse => 1 | .settle => 2)

/-- R27, R29, R33 to R35, R38 to R42, R210: the fields of the other registers and the numbers of the codes; a reading shows
only while RD_VALID = 1. -/
def Obligations.ResultRegistersShowTheirFields : Prop :=
  ∀ (free : Word) (s : State),
    registerValue free offCmd s = s.cmd ∧ registerValue free offResult s = resultWord s.result ∧
    ((resultWord s.result).extractLsb' 0 4).toNat =
      (match s.result.code with
        | .ok => 0 | .busStuck => 1 | .startTimeout => 2 | .addressTimeout => 3 | .addressNack => 4 | .dataTimeout => 5
        | .dataNack => 6 | .notReady => 7 | .illegalCommand => 15) ∧
    ((resultWord s.result).extractLsb' 4 3).toNat =
      (match s.result.stage with
        | .none => 0 | .trigger => 1 | .read => 2 | .decode => 3) ∧
    (s.rdValid = true → ((registerValue free offRdStatus s).extractLsb' 1 2).toNat =
      (match s.statusCode with
        | .valid => 0 | .stale => 1 | .notReady => 2 | .reserved => 3)) ∧
    (∀ i, i < Config.bufSize → (registerValue free (offBuf i) s).toNat = (bufByte s i).toNat) ∧
    (resultWord s.result).extractLsb' 0 4 = codeBits s.result.code ∧
    (resultWord s.result).extractLsb' 4 3 = stageBits s.result.stage ∧
    (resultWord s.result).getLsbD 7 = false ∧ (resultWord s.result).extractLsb' 8 8 = s.result.idx ∧
    (resultWord s.result).extractLsb' 16 16 = 0#16 ∧
    (registerValue free offRdStatus s).getLsbD 0 = s.rdValid ∧
    (s.rdValid = true → (registerValue free offRdStatus s).extractLsb' 1 2 = statusCodeBits s.statusCode) ∧
    (registerValue free offRdStatus s).extractLsb' 3 29 = 0#29 ∧
    (s.rdValid = true →
      (registerValue free offHumRaw s).toNat = s.humRaw.toNat ∧
      (registerValue free offTempRaw s).toNat = s.tempRaw.toNat ∧
      registerValue free offHumPct s = s.humPct ∧ registerValue free offTempC s = s.tempC) ∧
    (s.payValid = true → ∀ k, k < 4 → (registerValue free offPayload s).extractLsb' (8 * k) 8 = payGet s.pay k) ∧
    (registerValue free offScanCount s).toNat = s.count.toNat ∧
    (∀ a, a < 128 → (registerValue free (BitVec.ofNat 12 (0x034 + 4 * (a / 32))) s).getLsbD (a % 32) =
      s.present.getLsbD a) ∧
    (registerValue free offPins s).getLsbD 0 = s.sclO ∧ (registerValue free offPins s).getLsbD 1 = s.sdaO ∧
    (registerValue free offPins s).extractLsb' 2 30 = 0#30

/-! ### Reset -/

/-- 10_state.md R59, the reset column of R26: what the HOST reads after reset where the spec gives a value, the internal
state the table gives a value, and the reading registers, PAYLOAD and BUF at a free value (U7, U8). The latches' values
are the model's choice (log entry 7) and are not stated. -/
def Obligations.ResetIsTheTable : Prop :=
  ∀ free : Word,
    registerValue free offCmd State.reset = 0#32 ∧ registerValue free offStatus State.reset = 0x00000024#32 ∧
    registerValue free offResult State.reset = 0#32 ∧ registerValue free offTbudget State.reset = 0#32 ∧
    registerValue free offTbShort State.reset = 0#32 ∧ registerValue free offTbLong State.reset = 0#32 ∧
    registerValue free offRdStatus State.reset = 0#32 ∧ registerValue free offScanCount State.reset = 0#32 ∧
    registerValue free offPresent0 State.reset = 0#32 ∧ registerValue free offPresent1 State.reset = 0#32 ∧
    registerValue free offPresent2 State.reset = 0#32 ∧ registerValue free offPresent3 State.reset = 0#32 ∧
    registerValue free offPins State.reset = 0x00000003#32 ∧
    registerValue free offHumPct State.reset = free ∧ registerValue free offTempC State.reset = free ∧
    registerValue free offPayload State.reset = free ∧
    registerValue free offHumRaw State.reset = (free.setWidth 14).setWidth 32 ∧
    registerValue free offTempRaw State.reset = (free.setWidth 14).setWidth 32 ∧
    (∀ i, bufByte State.reset i = Config.unwrittenByte 0 i) ∧
    State.reset.pulse = 0#4 ∧ State.reset.rstate = .idle ∧ State.reset.trace = []

/-- R240: reset may hit the block at any time, in the middle of a command too; every piece of its state takes the reset
value, no event is added, TRACE is empty. What belongs to the outside stays; `epoch` makes the unspecified values new ones
(log entry 3, the model's choice). -/
def Obligations.ResetAtAnyTime : Prop :=
  ∀ (s : State) (rest : List Input), s.inbox = .rst :: rest →
    step s = .next
      { State.reset with
        inbox := rest, caller := s.caller, reads := s.reads, flagsIn := s.flagsIn, rxIn := s.rxIn, draws := s.draws,
        epoch := s.epoch + 1 }

/-! ### Bus recovery -/

/-- R131: the state `ForceClear()` leaves, its 38 events in order and their 46 ms, and that it touches nothing else, for
every state it is called in. (RSTATE and PULSE in between: StateMachinesNameTheirPhase.) -/
def Obligations.ForceClearProcedure : Prop :=
  (∀ s : State, runForceClear s =
    { s with
      desync := true, pinOvr := true, sclO := true, sdaO := true, rstate := .idle, pulse := 0#4,
      trace := s.trace ++ forceClearEvents }) ∧
  forceClearEvents.length = 38 ∧
  (forceClearEvents.map (fun e => match e with | .dly us => us | _ => 0)).sum = 46000

/-- R130, R197: FORCE_CLEAR completes with CODE = 0 from every idle state, budgets and flags of any value. -/
def Obligations.ForceClearCompletes : Prop :=
  ∀ s : State, Accepts .forceClear s →
    exec .forceClear s = .next
      { s with
        cmd := 0x30000000#32, opcur := 3#4, done := true, cmdOvr := false, result := ⟨.ok, .none, 0#8⟩,
        desync := true, pinOvr := true, sclO := true, sdaO := true, rstate := .idle, pulse := 0#4, upc := .idle,
        trace := s.trace ++ [.cmd 0x30000000#32] ++ forceClearEvents ++ [.ret ⟨.ok, .none, 0#8⟩] }

/-- R133 whole, with R197: REINIT completes with CODE = 0 from every idle state. -/
def Obligations.ReinitCompletes : Prop :=
  ∀ s : State, Accepts .reinit s →
    exec .reinit s = .next
      { s with
        cmd := 0x60000000#32, opcur := 6#4, done := true, cmdOvr := false, result := ⟨.ok, .none, 0#8⟩,
        desync := false, pinOvr := false, estate := .idle, upc := .idle,
        trace := s.trace ++ [.cmd 0x60000000#32, .pinRel, .reinit, .ret ⟨.ok, .none, 0#8⟩] }

/-! ### The transaction engine -/

/-- R141 (P_RACE = NackFirst, D6): a poll with budget B takes j samples, 1 <= j <= B; the first j - 1 decide nothing; the
j-th is a watched NACK, or the condition, or j = B; CNT is B - j + 1 or, on a timeout, 0; nothing else changes. -/
def Obligations.PollTakesAtMostItsBudget : Prop :=
  ∀ (c : PollCond) (watch : Bool) (b : Word) (s : State), b ≠ 0#32 →
    ∃ j, 1 ≤ j ∧ j ≤ b.toNat ∧
      (∀ k, k + 1 < j →
        (watch && (flagsAhead s k).nack) = false ∧ condHolds c (flagsAhead s k) = false) ∧
      (poll c watch b s).2 =
        { s with
          cnt := (match (poll c watch b s).1 with | .timeout => 0#32 | _ => BitVec.ofNat 32 (b.toNat - j + 1)),
          flagsIn := s.flagsIn.drop j, nSmp := s.nSmp + j,
          trace := s.trace ++ (List.range j).map (fun k => Event.smp (flagsAhead s k)) } ∧
      (match (poll c watch b s).1 with
        | .nack => watch = true ∧ (flagsAhead s (j - 1)).nack = true
        | .ready => condHolds c (flagsAhead s (j - 1)) = true ∧ (watch && (flagsAhead s (j - 1)).nack) = false
        | .timeout => j = b.toNat ∧ (watch && (flagsAhead s (j - 1)).nack) = false ∧
            condHolds c (flagsAhead s (j - 1)) = false)

/-- R142 whole: the bus free at the j-th sample of the poll; busy on all B samples and free at the one recheck after the
forced stop; busy there too: BusStuck, with nothing further done to the bus. -/
def Obligations.WaitBusFreeForcesOneStop : Prop :=
  ∀ (b : Word) (s : State), b ≠ 0#32 →
    (∀ j, 1 ≤ j → j ≤ b.toNat → (∀ k, k + 1 < j → (flagsAhead s k).busy = true) →
      (flagsAhead s (j - 1)).busy = false →
      waitBusFree b s = (.ok,
        { s with
          estate := .waitFree, cnt := BitVec.ofNat 32 (b.toNat - j + 1), flagsIn := s.flagsIn.drop j,
          nSmp := s.nSmp + j,
          trace := s.trace ++ (List.range j).map (fun k => Event.smp (flagsAhead s k)) })) ∧
    ((∀ k, k < b.toNat → (flagsAhead s k).busy = true) →
      waitBusFree b s =
        (if (flagsAhead s b.toNat).busy then Code.busStuck else Code.ok,
          { s with
            estate := (if (flagsAhead s b.toNat).busy then EState.failed else EState.waitFree), cnt := 0#32,
            flagsIn := s.flagsIn.drop (b.toNat + 1), nSmp := s.nSmp + (b.toNat + 1),
            trace := s.trace ++ (List.range b.toNat).map (fun k => Event.smp (flagsAhead s k)) ++
              [.stop, .dly 2000, .smp (flagsAhead s b.toNat)] }))

/-- R154, R151, R211: WRITE completes for every ENV, with one of its codes; everything it does not name is unchanged, BUF
among it. That the latches XDIR to XIDX and XB still hold the transaction's values afterwards is the model's choice (log
entry 18). -/
def Obligations.WriteCompletes : Prop :=
  ∀ (a : BusAddr) (l : Byte) (s : State), Accepts (.write a l) s →
    ∃ (t : State) (evs : List Event), exec (.write a l) s = .next t ∧
      t = { s with
        cmd := encode (.write a l), opcur := 1#4, done := true, cmdOvr := false, result := t.result,
        estate := t.estate, opBudget := s.tbudget, xdir := .write, xaddr := a, xlen := l, xb := s.tbudget,
        xsel := .buf, xidx := t.result.idx, cnt := t.cnt, xcode := t.result.code, upc := .idle,
        trace := s.trace ++ [.cmd (encode (.write a l))] ++ evs ++ [.ret t.result],
        flagsIn := t.flagsIn, nSmp := t.nSmp } ∧
      (∀ i, bufByte t i = bufByte s i) ∧ t.result.stage = .none ∧
      ((t.result.code = .ok ∧ t.estate = .done ∧ t.result.idx = l) ∨
        (t.result.code ∈ writeFailures ∧ t.estate = .failed ∧ t.result.idx.toNat < l.toNat ∧
          (t.result.code ≠ .dataTimeout → t.result.code ≠ .dataNack → t.result.idx = 0#8)))

/-- R154, R144, R145, R212: the bytes a WRITE hands to the line unit, for every outcome: none before the address phase,
the address byte, then BUF[0] on in order, up to the byte that failed. -/
def Obligations.WriteTransmitsAddressThenBuffer : Prop :=
  ∀ (a : BusAddr) (l : Byte) (s : State), Accepts (.write a l) s →
    ∃ (t : State) (evs : List Event), exec (.write a l) s = .next t ∧
      t.trace = s.trace ++ [.cmd (encode (.write a l))] ++ evs ++ [.ret t.result] ∧
      txBytes evs =
        (match t.result.code with
          | .ok => addressByte a .write :: (List.range l.toNat).map (bufByte s)
          | .dataNack => addressByte a .write :: (List.range (t.result.idx.toNat + 1)).map (bufByte s)
          | .dataTimeout => addressByte a .write :: (List.range (t.result.idx.toNat + 1)).map (bufByte s)
          | .addressNack => [addressByte a .write]
          | .addressTimeout => [addressByte a .write]
          | _ => [])

/-- R154: with ENV ideal, the trace of a WRITE of any legal length is exactly the one its rule gives, and CODE = 0. -/
def Obligations.WriteUnderIdealEnv : Prop :=
  ∀ (a : BusAddr) (l : Byte) (s : State) (fs : List Flags), Accepts (.write a l) s →
    s.flagsIn = List.replicate (l.toNat + 3) idealFlags ++ fs →
    ∃ t, exec (.write a l) s = .next t ∧ t.result = ⟨.ok, .none, l⟩ ∧ t.flagsIn = fs ∧
      t.trace = s.trace ++ [.cmd (encode (.write a l)), .smp idealFlags, .start, .smp idealFlags,
          .tx (addressByte a .write), .smp idealFlags] ++
        ((List.range l.toNat).map (fun i => [Event.tx (bufByte s i), Event.smp idealFlags])).flatten ++
        [.stop, .dly 2000, .ret ⟨.ok, .none, l⟩]

/-- R155, R151, R211, R254: READ completes for every ENV, with one of its codes and never DataNack; ACKPOL as its rule
gives; every BUF byte from IDX up and everything else it does not name is unchanged. That the latches still hold the
transaction's values afterwards is the model's choice (log entry 18). -/
def Obligations.ReadCompletes : Prop :=
  ∀ (a : BusAddr) (l : Byte) (s : State), Accepts (.read a l) s →
    ∃ (t : State) (evs : List Event), exec (.read a l) s = .next t ∧
      t = { s with
        cmd := encode (.read a l), opcur := 2#4, done := true, cmdOvr := false, result := t.result,
        estate := t.estate, ackpol := t.ackpol, buf := t.buf, opBudget := s.tbudget, xdir := .read, xaddr := a,
        xlen := l, xb := s.tbudget, xsel := .buf, xidx := t.result.idx, cnt := t.cnt, xcode := t.result.code,
        upc := .idle, trace := s.trace ++ [.cmd (encode (.read a l))] ++ evs ++ [.ret t.result],
        flagsIn := t.flagsIn, nSmp := t.nSmp, rxIn := t.rxIn, nRx := t.nRx } ∧
      (∀ i, t.result.idx.toNat ≤ i → bufByte t i = bufByte s i) ∧ t.result.stage = .none ∧
      ((t.result.code = .ok ∧ t.estate = .done ∧ t.result.idx = l ∧ t.ackpol = false) ∨
        (t.result.code ∈ readFailures ∧ t.estate = .failed ∧ t.result.idx.toNat < l.toNat ∧
          (t.result.code ≠ .dataTimeout → t.result.idx = 0#8) ∧
          t.ackpol =
            (match t.result.code with
              | .busStuck => s.ackpol
              | .dataTimeout => decide (t.result.idx.toNat + 1 ≠ l.toNat)
              | _ => true)))

/-- R155, R150, R77: the bytes a READ receives are ENV's answers in order, and the i-th stands in BUF[i], also when the
READ fails after IDX of them. -/
def Obligations.ReadStoresReceivedBytesInOrder : Prop :=
  ∀ (a : BusAddr) (l : Byte) (s : State), Accepts (.read a l) s →
    ∃ (t : State) (evs : List Event), exec (.read a l) s = .next t ∧
      t.trace = s.trace ++ [.cmd (encode (.read a l))] ++ evs ++ [.ret t.result] ∧
      rxBytes evs = (List.range t.result.idx.toNat).map (bufByte t) ∧
      rxBytes evs = (List.range t.result.idx.toNat).map (rxAhead s) ∧
      txBytes evs =
        (match t.result.code with
          | .busStuck => []
          | .startTimeout => []
          | _ => [addressByte a .read])

/-- R155: with ENV ideal, the trace of a READ of any legal length is exactly the one its rule gives: the policy switch
comes before the first sample of the last byte. -/
def Obligations.ReadUnderIdealEnv : Prop :=
  ∀ (a : BusAddr) (l : Byte) (s : State) (fs : List Flags) (bs : List Byte) (last : Byte) (rs : List Byte),
    Accepts (.read a l) s → s.flagsIn = List.replicate (l.toNat + 3) idealFlags ++ fs →
    s.rxIn = bs ++ [last] ++ rs → bs.length + 1 = l.toNat →
    ∃ t, exec (.read a l) s = .next t ∧ t.result = ⟨.ok, .none, l⟩ ∧ t.flagsIn = fs ∧ t.rxIn = rs ∧
      t.ackpol = false ∧
      t.trace = s.trace ++ [.cmd (encode (.read a l)), .smp idealFlags, .ack true, .start, .smp idealFlags,
          .tx (addressByte a .read), .smp idealFlags] ++
        (bs.map (fun b => [Event.smp idealFlags, Event.rx b])).flatten ++
        [.ack false, .smp idealFlags, .rx last, .stop, .dly 2000, .ret ⟨.ok, .none, l⟩]

/-- R147, R148, R149, R210: how a WRITE or READ leaves the bus: a success with stop and 2 ms, a NACK with clear, stop and
2 ms, BusStuck and every timeout with nothing after the last sample. -/
def Obligations.ExitsLeaveTheBusAsTheirCodeSays : Prop :=
  ∀ (i : Instr) (s : State), (∃ a l, i = .write a l ∨ i = .read a l) → Accepts i s →
    ∃ (t : State) (es : List Event) (f : Flags), exec i s = .next t ∧
      t.trace = s.trace ++ [.cmd (encode i)] ++ es ++ [.smp f] ++
        (match t.result.code with
          | .ok => (match i with
              | .read _ _ => [.rx (rxAhead s (t.result.idx.toNat - 1)), .stop, .dly 2000]
              | _ => [.stop, .dly 2000])
          | .addressNack => [.nackClr, .stop, .dly 2000]
          | .dataNack => [.nackClr, .stop, .dly 2000]
          | _ => []) ++ [.ret t.result] ∧
      (t.result.code = .addressNack ∨ t.result.code = .dataNack → f.nack = true) ∧
      (t.result.code = .busStuck → f.busy = true)

/-- R150, R260: a WRITE or READ of length L with budget B takes at most (L + 3) x B + 1 samples and at most L + 8 other
events between `Cmd` and `Ret`. -/
def Obligations.TransactionEventsAreBounded : Prop :=
  ∀ (i : Instr) (l : Byte) (s : State), (∃ a, i = .write a l ∨ i = .read a l) → Accepts i s →
    ∃ t, exec i s = .next t ∧ s.nSmp ≤ t.nSmp ∧ t.nSmp - s.nSmp ≤ (l.toNat + 3) * s.tbudget.toNat + 1 ∧
      t.trace.length ≤ s.trace.length + 2 + (t.nSmp - s.nSmp) + (l.toNat + 8)

/-! ### The sensor decoder -/

/-- R176 and R177 whole, with R175's status bits: the three fields of every payload, as numbers, and the examples. -/
def Obligations.PayloadFieldsAreExtracted : Prop :=
  (∀ p : Payload,
    payloadStatus p =
      (if p.b0.toNat / 64 = 0 then StatusCode.valid else if p.b0.toNat / 64 = 1 then StatusCode.stale
        else if p.b0.toNat / 64 = 2 then StatusCode.notReady else StatusCode.reserved) ∧
    (payloadHumRaw p).toNat = (p.b0.toNat % 64) * 256 + p.b1.toNat ∧
    (payloadTempRaw p).toNat = p.b3.toNat * 64 + p.b2.toNat / 4) ∧
  payloadHumRaw ⟨0x20#8, 0#8, 0#8, 0x80#8⟩ = 8192#14 ∧ payloadTempRaw ⟨0x20#8, 0#8, 0#8, 0x80#8⟩ = 8192#14 ∧
  payloadHumRaw ⟨0x7F#8, 0xFF#8, 0#8, 0#8⟩ = 16383#14 ∧ payloadTempRaw ⟨0#8, 0#8, 0x03#8, 0#8⟩ = 0#14 ∧
  payloadTempRaw ⟨0#8, 0#8, 0xFF#8, 0xFF#8⟩ = 16383#14

/-- R183 whole, with R171, R175, R182: MEASURE completes for every ENV; its (CODE, STAGE) is one of the listed pairs;
recovery runs once for a failed read and never otherwise; DSTATE, ESTATE and RD_VALID as each gives; refused when a budget
is 0. -/
def Obligations.MeasureOutcomesAreComplete : Prop :=
  (∀ s : State, Accepts .measure s →
    ∃ (t : State) (evs : List Event), exec .measure s = .next t ∧ t.busy = false ∧ t.done = true ∧
      t.result.idx = 0#8 ∧ t.trace = s.trace ++ [.cmd 0x40000000#32] ++ evs ++ [.ret t.result] ∧
      occurs (.pinDrv true true) evs = (if t.result.stage = .read then 1 else 0) ∧
      pinEvents evs = (if t.result.stage = .read then 19 else 0) ∧
      ((t.result.code = .ok ∧ t.result.stage = .none ∧ t.rdValid = true ∧ t.dstate = .decoded ∧ t.estate = .done) ∨
        (t.result.code ∈ writeFailures ∧ t.result.stage = .trigger ∧ t.rdValid = false ∧ t.dstate = .failed ∧
          t.estate = .failed) ∨
        (t.result.code ∈ readFailures ∧ t.result.stage = .read ∧ t.rdValid = false ∧ t.dstate = .failed ∧
          t.estate = .failed) ∨
        (t.result.code = .notReady ∧ t.result.stage = .decode ∧ t.rdValid = false ∧ t.dstate = .failed ∧
          t.estate = .done ∧ payloadStatus t.pay = .notReady))) ∧
  (∀ s : State, s.busy = false → (s.tbShort = 0#32 ∨ s.tbLong = 0#32) →
    ∃ t, exec .measure s = .next t ∧ t.result = ⟨.illegalCommand, .none, 0#8⟩ ∧ t.rdValid = s.rdValid ∧
      t.dstate = s.dstate ∧ t.statusCode = s.statusCode ∧ t.humRaw = s.humRaw ∧ t.tempRaw = s.tempRaw ∧
      t.humPct = s.humPct ∧ t.tempC = s.tempC ∧ t.pay = s.pay ∧ t.payValid = s.payValid)

/-- R170: what MEASURE writes and what it leaves: BUF, the scan file and the budgets unchanged; the reading registers
unchanged unless it succeeds; the pins and DESYNC unchanged unless the read fails. The latches' values afterwards are the
model's choice (log entry 18). -/
def Obligations.MeasureFrame : Prop :=
  ∀ s : State, Accepts .measure s →
    ∃ (t : State) (evs : List Event), exec .measure s = .next t ∧
      t = { s with
        cmd := 0x40000000#32, opcur := 4#4, done := true, cmdOvr := false, result := t.result, estate := t.estate,
        dstate := t.dstate, ackpol := t.ackpol, desync := t.desync, pinOvr := t.pinOvr, sclO := t.sclO, sdaO := t.sdaO,
        rstate := t.rstate, pulse := t.pulse, rdValid := t.rdValid, statusCode := t.statusCode, humRaw := t.humRaw,
        tempRaw := t.tempRaw, humPct := t.humPct, tempC := t.tempC, pay := t.pay, payValid := t.payValid,
        opShort := s.tbShort, opLong := s.tbLong, xdir := t.xdir, xaddr := 0x44#7, xlen := t.xlen, xb := t.xb,
        xsel := t.xsel, xidx := t.xidx, cnt := t.cnt, xcode := t.xcode, upc := .idle,
        trace := s.trace ++ [.cmd 0x40000000#32] ++ evs ++ [.ret t.result],
        flagsIn := t.flagsIn, nSmp := t.nSmp, rxIn := t.rxIn, nRx := t.nRx } ∧
      (∀ i, bufByte t i = bufByte s i) ∧
      (t.result.code ≠ .ok → t.statusCode = s.statusCode ∧ t.humRaw = s.humRaw ∧ t.tempRaw = s.tempRaw ∧
        t.humPct = s.humPct ∧ t.tempC = s.tempC) ∧
      (if t.result.stage = .read then
        t.desync = true ∧ t.pinOvr = true ∧ t.sclO = true ∧ t.sdaO = true ∧ t.rstate = .idle ∧ t.pulse = 0#4
      else
        t.desync = s.desync ∧ t.pinOvr = s.pinOvr ∧ t.sclO = s.sclO ∧ t.sdaO = s.sdaO ∧ t.rstate = s.rstate ∧
          t.pulse = s.pulse)

/-- R38, R174 to R180: a MEASURE whose read succeeded holds in PAY the four bytes ENV returned, in order; one whose trigger
failed leaves PAY alone, one whose read failed has stored the bytes received and no other, and PAYLOAD is then unspecified;
one that succeeds shows the status and the fields of that payload and the two calibrated values. -/
def Obligations.MeasureReadingIsThePayload : Prop :=
  ∀ s : State, Accepts .measure s →
    ∃ (t : State) (evs : List Event), exec .measure s = .next t ∧
      t.trace = s.trace ++ [.cmd 0x40000000#32] ++ evs ++ [.ret t.result] ∧
      (t.result.stage = .none ∨ t.result.stage = .decode →
        rxBytes evs = [t.pay.b0, t.pay.b1, t.pay.b2, t.pay.b3] ∧
        rxBytes evs = (List.range 4).map (rxAhead s) ∧ t.payValid = true) ∧
      (t.result.stage = .trigger → t.pay = s.pay ∧ t.payValid = false) ∧
      (t.result.stage = .read → t.payValid = false ∧ (rxBytes evs).length < 4 ∧
        ∀ k, k < 4 → payGet t.pay k = (if k < (rxBytes evs).length then rxAhead s k else payGet s.pay k)) ∧
      (t.result.code = .ok →
        t.statusCode = payloadStatus t.pay ∧ t.statusCode ≠ .notReady ∧
        t.humRaw = payloadHumRaw t.pay ∧ t.tempRaw = payloadTempRaw t.pay ∧
        t.humPct = numHum t.humRaw ∧ t.tempC = clampTemp (numTemp t.tempRaw))

/-- R172, R173, R174, R184: the trigger is the address byte 0x88 and one byte 0x00; the 50 ms wait follows it exactly
when it succeeded; the read is the address byte 0x89; a failed read, whatever its code, is followed by `ForceClear()`
once and 50 ms, and there is no other event on the pins. -/
def Obligations.MeasureWaitsAndRecoversOnlyAfterItsRead : Prop :=
  ∀ s : State, Accepts .measure s →
    ∃ (t : State) (evs : List Event), exec .measure s = .next t ∧
      t.trace = s.trace ++ [.cmd 0x40000000#32] ++ evs ++ [.ret t.result] ∧
      (if t.result.stage = .trigger then
        occurs (.dly 50000) evs = 0 ∧ pinEvents evs = 0 ∧ rxBytes evs = [] ∧ txBytes evs <+: [0x88#8, 0x00#8]
      else
        ∃ es1 es2, evs = es1 ++ [.dly 50000] ++ es2 ++
            (if t.result.stage = .read then forceClearEvents ++ [.dly 50000] else []) ∧
          txBytes es1 = [0x88#8, 0x00#8] ∧ txBytes es2 <+: [0x89#8] ∧
          occurs (.dly 50000) es1 = 0 ∧ occurs (.dly 50000) es2 = 0 ∧ pinEvents es1 = 0 ∧ pinEvents es2 = 0)

/-- R180: whatever NUM gives, TEMP_C lies in [-40.0, 125.0] after the clamp, and a value that lies there is not changed;
with the default NUM the clamp changes no value, and the values away from the ends lie strictly between. -/
def Obligations.TemperatureIsClamped : Prop :=
  (∀ v : Word, flt32 (clampTemp v) fTempLo = false ∧ flt32 fTempHi (clampTemp v) = false ∧
    (flt32 v fTempLo = false → flt32 fTempHi v = false → clampTemp v = v)) ∧
  (∀ t : BitVec 14, clampTemp (numTemp t) = numTemp t) ∧
  ∀ t : BitVec 14, t ≠ 0#14 → t ≠ 16383#14 →
    flt32 fTempLo (numTemp t) = true ∧ flt32 (numTemp t) fTempHi = true

/-- R181 for the default NUM: finite and normal but for +0.0, within 2^-16 of the exact rational, exact at both ends. -/
def Obligations.NumMeetsItsContract : Prop :=
  (∀ h : BitVec 14, within (numHum h) (100 * (h.toNat : Int)) 16383 ∧ (h ≠ 0#14 → normalFloat (numHum h))) ∧
  (∀ t : BitVec 14, within (numTemp t) (165 * (t.toNat : Int) - 40 * 16383) 16383 ∧ normalFloat (numTemp t)) ∧
  numHum 0#14 = 0x00000000#32 ∧ numHum 16383#14 = f100 ∧ numTemp 0#14 = fTempLo ∧
  clampTemp (numTemp 16383#14) = fTempHi

/-- R181 for the default NUM: both mappings are strictly increasing. -/
def Obligations.NumIsStrictlyIncreasing : Prop :=
  ∀ x y : BitVec 14, x.toNat < y.toNat →
    flt32 (numHum x) (numHum y) = true ∧ flt32 (numTemp x) (numTemp y) = true

/-- 95_test_vectors.md 2.4: rows of the numeric table. -/
def Obligations.NumTableRows : Prop :=
  numHum 1#14 = 0x3BC80320#32 ∧ numHum 5461#14 = 0x42055556#32 ∧ numHum 8192#14 = 0x42480320#32 ∧
  numTemp 1#14 = 0xC21FF5B0#32 ∧ numTemp 4096#14 = 0x3FA05280#32 ∧ numTemp 5461#14 = 0x41700000#32 ∧
  numTemp 8192#14 = 0x422A0528#32 ∧ numTemp 16128#14 = 0x42F4DD14#32

/-! ### The bus scan -/

/-- R190: SCAN completes with CODE = 0 for every ENV; what it writes and leaves; COUNT is the number of addresses
present; the reserved addresses are absent. The values of SADDR and of the latches afterwards are the model's choice (log
entry 18). -/
def Obligations.ScanCompletes : Prop :=
  ∀ s : State, Accepts .scan s →
    ∃ (t : State) (evs : List Event), exec .scan s = .next t ∧
      t = { s with
        cmd := 0x50000000#32, opcur := 5#4, done := true, cmdOvr := false, result := ⟨.ok, .none, 0#8⟩,
        present := t.present, count := t.count, saddr := 0x7E#7, estate := t.estate, opShort := s.tbShort,
        xdir := .write, xaddr := 0x7E#7, xlen := 1#8, xb := s.tbShort, xsel := .const 0x00#8, xidx := t.xidx,
        cnt := t.cnt, xcode := t.xcode, upc := .idle,
        trace := s.trace ++ [.cmd 0x50000000#32] ++ evs ++ [.ret ⟨.ok, .none, 0#8⟩],
        flagsIn := t.flagsIn, nSmp := t.nSmp } ∧
      (∀ i, bufByte t i = bufByte s i) ∧
      t.count.toNat = (List.range 128).countP (fun a => t.present.getLsbD a) ∧
      t.present.getLsbD 0 = false ∧ t.present.getLsbD 0x7F = false ∧ (t.estate = .done ∨ t.estate = .failed)

/-- R190: address `a` is present exactly when the probe of `a`, run where the probes of the lower addresses left the
block, succeeded; each probe is one write transaction of the byte 0x00, and the scan goes on whatever it returns. -/
def Obligations.PresentMeansTheProbeSucceeded : Prop :=
  ∀ (s : State) (a : Nat), 1 ≤ a → a ≤ 0x7E →
    let before := scanLoop (a - 1) 1 (clearScan s)
    let x := xact .write (BitVec.ofNat 7 a) 1#8 s.opShort (.const 0x00#8) { before with saddr := BitVec.ofNat 7 a }
    (runScan s).2.present.getLsbD a = decide (x.1 = .ok) ∧
    (runScan s).2 = scanLoop (0x7E - a) (a + 1) (notePresent x.1 x.2)

/-- R190 (E1), R192: a scan transmits nothing before its first start condition; the first bytes after its start conditions,
which are its address bytes (O4), are among 0x02, 0x04, ..., 0xFC in ascending order, each at most once, so that address 0,
address 0x7F and a read are never probed; at most the one probe byte 0x00 follows each; the bounds on its events. -/
def Obligations.ScanProbesValidAddressesOnly : Prop :=
  ∀ s : State, Accepts .scan s →
    ∃ (t : State) (evs : List Event), exec .scan s = .next t ∧
      t.trace = s.trace ++ [.cmd 0x50000000#32] ++ evs ++ [.ret ⟨.ok, .none, 0#8⟩] ∧
      (txByStart evs).1 = [] ∧
      ((txByStart evs).2.filterMap List.head?).Sublist ((List.range 126).map (fun k => BitVec.ofNat 8 (2 * (k + 1)))) ∧
      (∀ bs, bs ∈ (txByStart evs).2 → bs.tail = [] ∨ bs.tail = [0x00#8]) ∧
      rxBytes evs = [] ∧ pinEvents evs = 0 ∧ occurs .stop evs ≤ 252 ∧ occurs .start evs ≤ 126 ∧
      s.nSmp ≤ t.nSmp ∧ t.nSmp - s.nSmp ≤ 126 * (4 * s.tbShort.toNat + 1)

/-! ### Whole-machine rules -/

/-- R8, R9, R83: from the accepted state of a HOST that polls, steps of the CORE one primitive at a time end, and end in
the very state the command's meaning gives a HOST that waits. -/
def Obligations.PrimitiveStepsReachTheCommandsResult : Prop :=
  ∀ (i : Instr) (s t : State), s.busy = false → s.inbox = [] → exec i { s with caller := .blocks } = .next t →
    ∃ (u : State) (n : Nat), exec i { s with caller := .polls } = .next u ∧
      steps n u = .next { t with caller := .polls }

/-- R8: one step of the CORE makes exactly one primitive with one event, and never touches CMD, OPCUR, the budgets, the
HOST's inputs or its record. -/
def Obligations.CoreStepMakesOneEvent : Prop :=
  ∀ s t : State, coreStep s = .next t →
    ∃ e, t.trace = s.trace ++ [e] ∧ t.cmd = s.cmd ∧ t.opcur = s.opcur ∧ t.tbudget = s.tbudget ∧
      t.tbShort = s.tbShort ∧ t.tbLong = s.tbLong ∧ t.cmdOvr = s.cmdOvr ∧ t.inbox = s.inbox ∧ t.reads = s.reads ∧
      ((∀ r, e ≠ .ret r) → t.busy = s.busy ∧ t.done = s.done ∧ t.result = s.result)

/-- R245: no command's accept, sequencing or result depends on DESYNC, PIN_OVR or ACKPOL. -/
def Obligations.StatusFlagsDoNotSteerCommands : Prop :=
  ∀ (i : Instr) (s t : State) (d p a : Bool), exec i s = .next t →
    ∃ t', exec i { s with desync := d, pinOvr := p, ackpol := a } = .next t' ∧
      { t' with desync := t.desync, pinOvr := t.pinOvr, ackpol := t.ackpol } = t

/-- R11, R45, R78: a command is in progress exactly while the CORE has a position in it; every step keeps that, and from
such a state no step faults, and only a misaligned access of the HOST is refused. -/
def Obligations.BlockNeverGetsStuck : Prop :=
  ∀ s : State, PositionInv s →
    (∀ t, step s = .next t → PositionInv t) ∧ (∀ f, step s ≠ .fault f) ∧
    (∀ r, step s = .refused r → ∃ off, r = .misalignedAccess off ∧ off.toNat % 4 ≠ 0)

/-- R72, R150: every step keeps BUF in canonical form, with the bytes 0 to 31 only. -/
def Obligations.BufferStaysCanonical : Prop :=
  ∀ s t : State, BufferInv s → step s = .next t → BufferInv t

/-- R28, R55, R56: PIN_OVR = 1 implies DESYNC = 1 after every step. -/
def Obligations.PinsTakenMeansDesynchronised : Prop :=
  ∀ s t : State, PinsInv s → step s = .next t → PinsInv t

/-- R25, R33, C7: after every step a valid reading is never NotReady and its values are those of its raw fields. -/
def Obligations.ValidReadingStaysCoherent : Prop :=
  ∀ s t : State, ReadingInv s → step s = .next t → ReadingInv t

/-- R39, R40, R45: after every step the reserved addresses are absent and COUNT is at most 126, inside a scan too. -/
def Obligations.ScanFileStaysInRange : Prop :=
  ∀ s t : State, PositionInv s → ScanInv s → step s = .next t → ScanInv t

/-- R45, R141, R152: no counter wraps: after every step CNT is at least 1 after a sample of a poll, XIDX at most LEN, PULSE
1 to 9 inside the pulses. -/
def Obligations.CountersNeverWrap : Prop :=
  ∀ s t : State, PositionInv s → CountersInv s → step s = .next t → CountersInv t

/-- R47, R48, R49: after every step ESTATE names the phase the CORE is in, RSTATE and PULSE the part of `ForceClear()`,
DSTATE the stage of MEASURE: D_TRIGGERED in its write transaction, D_READING in its read. -/
def Obligations.StateMachinesNameTheirPhase : Prop :=
  ∀ s t : State, PositionInv s → StatesInv s → step s = .next t → StatesInv t

/-- R89: after every step TRACE has the shape the rule gives: closed segments, pins driven only while taken, every byte
received after a receive-ready sample, every NACK cleared after a nack sample and followed by stop and 2 ms. -/
def Obligations.TraceKeepsItsShape : Prop :=
  ∀ s t : State, TraceInv s → step s = .next t → TraceInv t

/-- The state after reset meets every invariant above. -/
def Obligations.ResetMeetsTheInvariants : Prop :=
  PositionInv State.reset ∧ BufferInv State.reset ∧ PinsInv State.reset ∧ ReadingInv State.reset ∧
    ScanInv State.reset ∧ CountersInv State.reset ∧ StatesInv State.reset ∧ TraceInv State.reset

/-! ### Statements added after the first review -/

/-- R83, R113: while BUSY = 0 the CORE takes no step, so an idle block stays as it is until the HOST makes an access; WAIT
lets the CORE step while BUSY = 1 and stays the next input, and ends with one read of STATUS at BUSY = 0 (log entry 13,
the model's choice). -/
def Obligations.IdleBlockTakesNoStep : Prop :=
  ∀ (s : State) (rest : List Input),
    (s.busy = false → s.inbox = [] → step s = .next s) ∧
    (s.busy = false → s.inbox = .yield :: rest → step s = .next { s with inbox := rest }) ∧
    (s.busy = false → s.inbox = .wait :: rest →
      step s = .next
        { s with
          inbox := rest, reads := s.reads ++ [(offStatus, statusWord s)], draws := s.draws + 1 }) ∧
    (s.busy = true → s.inbox = [] → step s = coreStep s) ∧
    (s.busy = true → s.inbox = .yield :: rest → step s = coreStep { s with inbox := rest }) ∧
    (s.busy = true → s.inbox = .wait :: rest → step s = coreStep s ∧ ∀ t, step s = .next t → t.inbox = .wait :: rest)

/-- R260: a MEASURE takes at most (4 x TB_SHORT + 1) + (7 x TB_LONG + 1) samples and, beside them and its two brackets, at
most 38 + 2 events and the other events of its two transactions, 9 and 12. -/
def Obligations.MeasureEventsAreBounded : Prop :=
  ∀ s : State, Accepts .measure s →
    ∃ t, exec .measure s = .next t ∧ s.nSmp ≤ t.nSmp ∧
      t.nSmp - s.nSmp ≤ (4 * s.tbShort.toNat + 1) + (7 * s.tbLong.toNat + 1) ∧
      t.trace.length ≤ s.trace.length + 2 + (t.nSmp - s.nSmp) + (38 + 2 + 9 + 12)

/-- R54, R143, R146: ACKPOL after each outcome of MEASURE: as before when the trigger failed or the read found the bus
stuck; 0 when the read's last byte was reached; 1 otherwise. -/
def Obligations.MeasureLeavesTheAckPolicy : Prop :=
  ∀ s : State, Accepts .measure s →
    ∃ (t : State) (evs : List Event), exec .measure s = .next t ∧
      t.trace = s.trace ++ [.cmd 0x40000000#32] ++ evs ++ [.ret t.result] ∧
      t.ackpol =
        (match t.result.stage with
          | .none => false
          | .decode => false
          | .trigger => s.ackpol
          | .read =>
            match t.result.code with
              | .busStuck => s.ackpol
              | .dataTimeout => decide ((rxBytes evs).length ≠ 3)
              | _ => true)

/-- R8: an assignment of the CORE is part of the step of the primitive that follows it: ESTATE, CNT, RSTATE and PULSE move
in the step of the next phase's first primitive, not before. -/
def Obligations.AssignmentsGoWithTheNextPrimitive : Prop :=
  (∀ s t : State, s.upc = .stStart → coreStep s = .next t → t.cnt = s.xb ∧ t.trace = s.trace ++ [.smp (nextFlags s)]) ∧
  (∀ s t : State, s.upc = .stSmp (some .ready) → coreStep s = .next t →
    t.estate = .addr ∧ t.cnt = s.cnt ∧ t.trace = s.trace ++ [.tx (addressByte s.xaddr s.xdir)]) ∧
  (∀ s t : State, s.upc = .spStop → coreStep s = .next t → t.estate = s.estate ∧ t.trace = s.trace ++ [.dly 2000]) ∧
  (∀ s t : State, s.upc = .spDly → s.opcur = 1#4 → coreStep s = .next t →
    t.estate = .done ∧ t.result = ⟨.ok, .none, s.xidx⟩ ∧ t.trace = s.trace ++ [.ret ⟨.ok, .none, s.xidx⟩]) ∧
  (∀ s t : State, s.upc = .accepted .forceClear → coreStep s = .next t →
    t.rstate = s.rstate ∧ t.pulse = s.pulse ∧ t.desync = true ∧ t.trace = s.trace ++ [.pinDrv true true]) ∧
  (∀ s t : State, s.upc = .fcDrive → coreStep s = .next t →
    t.rstate = .pulse ∧ t.pulse = 1#4 ∧ t.trace = s.trace ++ [.scl false])
end

