-- ==== Sys2Proof/Laws/State.lean ====
section
/-! SUPPORT. What each field is after each shared update: one lemma per field per update, true by rfl, so that no proof
unfolds a record update. -/

namespace Sys2Proof.Machine

/-! ### emit -/

@[simp] theorem emit_cmd (e : Event) (s : State) : (emit e s).cmd = s.cmd := rfl
@[simp] theorem emit_busy (e : Event) (s : State) : (emit e s).busy = s.busy := rfl
@[simp] theorem emit_done (e : Event) (s : State) : (emit e s).done = s.done := rfl
@[simp] theorem emit_desync (e : Event) (s : State) : (emit e s).desync = s.desync := rfl
@[simp] theorem emit_pinOvr (e : Event) (s : State) : (emit e s).pinOvr = s.pinOvr := rfl
@[simp] theorem emit_cmdOvr (e : Event) (s : State) : (emit e s).cmdOvr = s.cmdOvr := rfl
@[simp] theorem emit_ackpol (e : Event) (s : State) : (emit e s).ackpol = s.ackpol := rfl
@[simp] theorem emit_opcur (e : Event) (s : State) : (emit e s).opcur = s.opcur := rfl
@[simp] theorem emit_estate (e : Event) (s : State) : (emit e s).estate = s.estate := rfl
@[simp] theorem emit_dstate (e : Event) (s : State) : (emit e s).dstate = s.dstate := rfl
@[simp] theorem emit_rstate (e : Event) (s : State) : (emit e s).rstate = s.rstate := rfl
@[simp] theorem emit_pulse (e : Event) (s : State) : (emit e s).pulse = s.pulse := rfl
@[simp] theorem emit_result (e : Event) (s : State) : (emit e s).result = s.result := rfl
@[simp] theorem emit_tbudget (e : Event) (s : State) : (emit e s).tbudget = s.tbudget := rfl
@[simp] theorem emit_tbShort (e : Event) (s : State) : (emit e s).tbShort = s.tbShort := rfl
@[simp] theorem emit_tbLong (e : Event) (s : State) : (emit e s).tbLong = s.tbLong := rfl
@[simp] theorem emit_rdValid (e : Event) (s : State) : (emit e s).rdValid = s.rdValid := rfl
@[simp] theorem emit_statusCode (e : Event) (s : State) : (emit e s).statusCode = s.statusCode := rfl
@[simp] theorem emit_humRaw (e : Event) (s : State) : (emit e s).humRaw = s.humRaw := rfl
@[simp] theorem emit_tempRaw (e : Event) (s : State) : (emit e s).tempRaw = s.tempRaw := rfl
@[simp] theorem emit_humPct (e : Event) (s : State) : (emit e s).humPct = s.humPct := rfl
@[simp] theorem emit_tempC (e : Event) (s : State) : (emit e s).tempC = s.tempC := rfl
@[simp] theorem emit_pay (e : Event) (s : State) : (emit e s).pay = s.pay := rfl
@[simp] theorem emit_count (e : Event) (s : State) : (emit e s).count = s.count := rfl
@[simp] theorem emit_present (e : Event) (s : State) : (emit e s).present = s.present := rfl
@[simp] theorem emit_sclO (e : Event) (s : State) : (emit e s).sclO = s.sclO := rfl
@[simp] theorem emit_sdaO (e : Event) (s : State) : (emit e s).sdaO = s.sdaO := rfl
@[simp] theorem emit_buf (e : Event) (s : State) : (emit e s).buf = s.buf := rfl
@[simp] theorem emit_xdir (e : Event) (s : State) : (emit e s).xdir = s.xdir := rfl
@[simp] theorem emit_xaddr (e : Event) (s : State) : (emit e s).xaddr = s.xaddr := rfl
@[simp] theorem emit_xlen (e : Event) (s : State) : (emit e s).xlen = s.xlen := rfl
@[simp] theorem emit_xb (e : Event) (s : State) : (emit e s).xb = s.xb := rfl
@[simp] theorem emit_xsel (e : Event) (s : State) : (emit e s).xsel = s.xsel := rfl
@[simp] theorem emit_xidx (e : Event) (s : State) : (emit e s).xidx = s.xidx := rfl
@[simp] theorem emit_cnt (e : Event) (s : State) : (emit e s).cnt = s.cnt := rfl
@[simp] theorem emit_saddr (e : Event) (s : State) : (emit e s).saddr = s.saddr := rfl
@[simp] theorem emit_opBudget (e : Event) (s : State) : (emit e s).opBudget = s.opBudget := rfl
@[simp] theorem emit_opShort (e : Event) (s : State) : (emit e s).opShort = s.opShort := rfl
@[simp] theorem emit_opLong (e : Event) (s : State) : (emit e s).opLong = s.opLong := rfl
@[simp] theorem emit_trace (e : Event) (s : State) : (emit e s).trace = s.trace ++ [e] := rfl
@[simp] theorem emit_inbox (e : Event) (s : State) : (emit e s).inbox = s.inbox := rfl
@[simp] theorem emit_caller (e : Event) (s : State) : (emit e s).caller = s.caller := rfl
@[simp] theorem emit_reads (e : Event) (s : State) : (emit e s).reads = s.reads := rfl
@[simp] theorem emit_upc (e : Event) (s : State) : (emit e s).upc = s.upc := rfl
@[simp] theorem emit_xcode (e : Event) (s : State) : (emit e s).xcode = s.xcode := rfl
@[simp] theorem emit_payValid (e : Event) (s : State) : (emit e s).payValid = s.payValid := rfl
@[simp] theorem emit_flagsIn (e : Event) (s : State) : (emit e s).flagsIn = s.flagsIn := rfl
@[simp] theorem emit_rxIn (e : Event) (s : State) : (emit e s).rxIn = s.rxIn := rfl
@[simp] theorem emit_nSmp (e : Event) (s : State) : (emit e s).nSmp = s.nSmp := rfl
@[simp] theorem emit_nRx (e : Event) (s : State) : (emit e s).nRx = s.nRx := rfl
@[simp] theorem emit_draws (e : Event) (s : State) : (emit e s).draws = s.draws := rfl
@[simp] theorem emit_epoch (e : Event) (s : State) : (emit e s).epoch = s.epoch := rfl

/-! ### luSample -/

@[simp] theorem luSample_cmd (s : State) : (luSample s).cmd = s.cmd := rfl
@[simp] theorem luSample_busy (s : State) : (luSample s).busy = s.busy := rfl
@[simp] theorem luSample_done (s : State) : (luSample s).done = s.done := rfl
@[simp] theorem luSample_desync (s : State) : (luSample s).desync = s.desync := rfl
@[simp] theorem luSample_pinOvr (s : State) : (luSample s).pinOvr = s.pinOvr := rfl
@[simp] theorem luSample_cmdOvr (s : State) : (luSample s).cmdOvr = s.cmdOvr := rfl
@[simp] theorem luSample_ackpol (s : State) : (luSample s).ackpol = s.ackpol := rfl
@[simp] theorem luSample_opcur (s : State) : (luSample s).opcur = s.opcur := rfl
@[simp] theorem luSample_estate (s : State) : (luSample s).estate = s.estate := rfl
@[simp] theorem luSample_dstate (s : State) : (luSample s).dstate = s.dstate := rfl
@[simp] theorem luSample_rstate (s : State) : (luSample s).rstate = s.rstate := rfl
@[simp] theorem luSample_pulse (s : State) : (luSample s).pulse = s.pulse := rfl
@[simp] theorem luSample_result (s : State) : (luSample s).result = s.result := rfl
@[simp] theorem luSample_tbudget (s : State) : (luSample s).tbudget = s.tbudget := rfl
@[simp] theorem luSample_tbShort (s : State) : (luSample s).tbShort = s.tbShort := rfl
@[simp] theorem luSample_tbLong (s : State) : (luSample s).tbLong = s.tbLong := rfl
@[simp] theorem luSample_rdValid (s : State) : (luSample s).rdValid = s.rdValid := rfl
@[simp] theorem luSample_statusCode (s : State) : (luSample s).statusCode = s.statusCode := rfl
@[simp] theorem luSample_humRaw (s : State) : (luSample s).humRaw = s.humRaw := rfl
@[simp] theorem luSample_tempRaw (s : State) : (luSample s).tempRaw = s.tempRaw := rfl
@[simp] theorem luSample_humPct (s : State) : (luSample s).humPct = s.humPct := rfl
@[simp] theorem luSample_tempC (s : State) : (luSample s).tempC = s.tempC := rfl
@[simp] theorem luSample_pay (s : State) : (luSample s).pay = s.pay := rfl
@[simp] theorem luSample_count (s : State) : (luSample s).count = s.count := rfl
@[simp] theorem luSample_present (s : State) : (luSample s).present = s.present := rfl
@[simp] theorem luSample_sclO (s : State) : (luSample s).sclO = s.sclO := rfl
@[simp] theorem luSample_sdaO (s : State) : (luSample s).sdaO = s.sdaO := rfl
@[simp] theorem luSample_buf (s : State) : (luSample s).buf = s.buf := rfl
@[simp] theorem luSample_xdir (s : State) : (luSample s).xdir = s.xdir := rfl
@[simp] theorem luSample_xaddr (s : State) : (luSample s).xaddr = s.xaddr := rfl
@[simp] theorem luSample_xlen (s : State) : (luSample s).xlen = s.xlen := rfl
@[simp] theorem luSample_xb (s : State) : (luSample s).xb = s.xb := rfl
@[simp] theorem luSample_xsel (s : State) : (luSample s).xsel = s.xsel := rfl
@[simp] theorem luSample_xidx (s : State) : (luSample s).xidx = s.xidx := rfl
@[simp] theorem luSample_cnt (s : State) : (luSample s).cnt = s.cnt := rfl
@[simp] theorem luSample_saddr (s : State) : (luSample s).saddr = s.saddr := rfl
@[simp] theorem luSample_opBudget (s : State) : (luSample s).opBudget = s.opBudget := rfl
@[simp] theorem luSample_opShort (s : State) : (luSample s).opShort = s.opShort := rfl
@[simp] theorem luSample_opLong (s : State) : (luSample s).opLong = s.opLong := rfl
@[simp] theorem luSample_trace (s : State) : (luSample s).trace = s.trace ++ [.smp (nextFlags s)] := rfl
@[simp] theorem luSample_inbox (s : State) : (luSample s).inbox = s.inbox := rfl
@[simp] theorem luSample_caller (s : State) : (luSample s).caller = s.caller := rfl
@[simp] theorem luSample_reads (s : State) : (luSample s).reads = s.reads := rfl
@[simp] theorem luSample_upc (s : State) : (luSample s).upc = s.upc := rfl
@[simp] theorem luSample_xcode (s : State) : (luSample s).xcode = s.xcode := rfl
@[simp] theorem luSample_payValid (s : State) : (luSample s).payValid = s.payValid := rfl
@[simp] theorem luSample_flagsIn (s : State) : (luSample s).flagsIn = s.flagsIn.tail := rfl
@[simp] theorem luSample_rxIn (s : State) : (luSample s).rxIn = s.rxIn := rfl
@[simp] theorem luSample_nSmp (s : State) : (luSample s).nSmp = s.nSmp + 1 := rfl
@[simp] theorem luSample_nRx (s : State) : (luSample s).nRx = s.nRx := rfl
@[simp] theorem luSample_draws (s : State) : (luSample s).draws = s.draws := rfl
@[simp] theorem luSample_epoch (s : State) : (luSample s).epoch = s.epoch := rfl

/-! ### luRxRead -/

@[simp] theorem luRxRead_cmd (s : State) : (luRxRead s).cmd = s.cmd := rfl
@[simp] theorem luRxRead_busy (s : State) : (luRxRead s).busy = s.busy := rfl
@[simp] theorem luRxRead_done (s : State) : (luRxRead s).done = s.done := rfl
@[simp] theorem luRxRead_desync (s : State) : (luRxRead s).desync = s.desync := rfl
@[simp] theorem luRxRead_pinOvr (s : State) : (luRxRead s).pinOvr = s.pinOvr := rfl
@[simp] theorem luRxRead_cmdOvr (s : State) : (luRxRead s).cmdOvr = s.cmdOvr := rfl
@[simp] theorem luRxRead_ackpol (s : State) : (luRxRead s).ackpol = s.ackpol := rfl
@[simp] theorem luRxRead_opcur (s : State) : (luRxRead s).opcur = s.opcur := rfl
@[simp] theorem luRxRead_estate (s : State) : (luRxRead s).estate = s.estate := rfl
@[simp] theorem luRxRead_dstate (s : State) : (luRxRead s).dstate = s.dstate := rfl
@[simp] theorem luRxRead_rstate (s : State) : (luRxRead s).rstate = s.rstate := rfl
@[simp] theorem luRxRead_pulse (s : State) : (luRxRead s).pulse = s.pulse := rfl
@[simp] theorem luRxRead_result (s : State) : (luRxRead s).result = s.result := rfl
@[simp] theorem luRxRead_tbudget (s : State) : (luRxRead s).tbudget = s.tbudget := rfl
@[simp] theorem luRxRead_tbShort (s : State) : (luRxRead s).tbShort = s.tbShort := rfl
@[simp] theorem luRxRead_tbLong (s : State) : (luRxRead s).tbLong = s.tbLong := rfl
@[simp] theorem luRxRead_rdValid (s : State) : (luRxRead s).rdValid = s.rdValid := rfl
@[simp] theorem luRxRead_statusCode (s : State) : (luRxRead s).statusCode = s.statusCode := rfl
@[simp] theorem luRxRead_humRaw (s : State) : (luRxRead s).humRaw = s.humRaw := rfl
@[simp] theorem luRxRead_tempRaw (s : State) : (luRxRead s).tempRaw = s.tempRaw := rfl
@[simp] theorem luRxRead_humPct (s : State) : (luRxRead s).humPct = s.humPct := rfl
@[simp] theorem luRxRead_tempC (s : State) : (luRxRead s).tempC = s.tempC := rfl
@[simp] theorem luRxRead_pay (s : State) : (luRxRead s).pay = s.pay := rfl
@[simp] theorem luRxRead_count (s : State) : (luRxRead s).count = s.count := rfl
@[simp] theorem luRxRead_present (s : State) : (luRxRead s).present = s.present := rfl
@[simp] theorem luRxRead_sclO (s : State) : (luRxRead s).sclO = s.sclO := rfl
@[simp] theorem luRxRead_sdaO (s : State) : (luRxRead s).sdaO = s.sdaO := rfl
@[simp] theorem luRxRead_buf (s : State) : (luRxRead s).buf = s.buf := rfl
@[simp] theorem luRxRead_xdir (s : State) : (luRxRead s).xdir = s.xdir := rfl
@[simp] theorem luRxRead_xaddr (s : State) : (luRxRead s).xaddr = s.xaddr := rfl
@[simp] theorem luRxRead_xlen (s : State) : (luRxRead s).xlen = s.xlen := rfl
@[simp] theorem luRxRead_xb (s : State) : (luRxRead s).xb = s.xb := rfl
@[simp] theorem luRxRead_xsel (s : State) : (luRxRead s).xsel = s.xsel := rfl
@[simp] theorem luRxRead_xidx (s : State) : (luRxRead s).xidx = s.xidx := rfl
@[simp] theorem luRxRead_cnt (s : State) : (luRxRead s).cnt = s.cnt := rfl
@[simp] theorem luRxRead_saddr (s : State) : (luRxRead s).saddr = s.saddr := rfl
@[simp] theorem luRxRead_opBudget (s : State) : (luRxRead s).opBudget = s.opBudget := rfl
@[simp] theorem luRxRead_opShort (s : State) : (luRxRead s).opShort = s.opShort := rfl
@[simp] theorem luRxRead_opLong (s : State) : (luRxRead s).opLong = s.opLong := rfl
@[simp] theorem luRxRead_trace (s : State) : (luRxRead s).trace = s.trace ++ [.rx (nextRx s)] := rfl
@[simp] theorem luRxRead_inbox (s : State) : (luRxRead s).inbox = s.inbox := rfl
@[simp] theorem luRxRead_caller (s : State) : (luRxRead s).caller = s.caller := rfl
@[simp] theorem luRxRead_reads (s : State) : (luRxRead s).reads = s.reads := rfl
@[simp] theorem luRxRead_upc (s : State) : (luRxRead s).upc = s.upc := rfl
@[simp] theorem luRxRead_xcode (s : State) : (luRxRead s).xcode = s.xcode := rfl
@[simp] theorem luRxRead_payValid (s : State) : (luRxRead s).payValid = s.payValid := rfl
@[simp] theorem luRxRead_flagsIn (s : State) : (luRxRead s).flagsIn = s.flagsIn := rfl
@[simp] theorem luRxRead_rxIn (s : State) : (luRxRead s).rxIn = s.rxIn.tail := rfl
@[simp] theorem luRxRead_nSmp (s : State) : (luRxRead s).nSmp = s.nSmp := rfl
@[simp] theorem luRxRead_nRx (s : State) : (luRxRead s).nRx = s.nRx + 1 := rfl
@[simp] theorem luRxRead_draws (s : State) : (luRxRead s).draws = s.draws := rfl
@[simp] theorem luRxRead_epoch (s : State) : (luRxRead s).epoch = s.epoch := rfl

/-! ### countDown -/

@[simp] theorem countDown_cmd (s : State) : (countDown s).cmd = s.cmd := rfl
@[simp] theorem countDown_busy (s : State) : (countDown s).busy = s.busy := rfl
@[simp] theorem countDown_done (s : State) : (countDown s).done = s.done := rfl
@[simp] theorem countDown_desync (s : State) : (countDown s).desync = s.desync := rfl
@[simp] theorem countDown_pinOvr (s : State) : (countDown s).pinOvr = s.pinOvr := rfl
@[simp] theorem countDown_cmdOvr (s : State) : (countDown s).cmdOvr = s.cmdOvr := rfl
@[simp] theorem countDown_ackpol (s : State) : (countDown s).ackpol = s.ackpol := rfl
@[simp] theorem countDown_opcur (s : State) : (countDown s).opcur = s.opcur := rfl
@[simp] theorem countDown_estate (s : State) : (countDown s).estate = s.estate := rfl
@[simp] theorem countDown_dstate (s : State) : (countDown s).dstate = s.dstate := rfl
@[simp] theorem countDown_rstate (s : State) : (countDown s).rstate = s.rstate := rfl
@[simp] theorem countDown_pulse (s : State) : (countDown s).pulse = s.pulse := rfl
@[simp] theorem countDown_result (s : State) : (countDown s).result = s.result := rfl
@[simp] theorem countDown_tbudget (s : State) : (countDown s).tbudget = s.tbudget := rfl
@[simp] theorem countDown_tbShort (s : State) : (countDown s).tbShort = s.tbShort := rfl
@[simp] theorem countDown_tbLong (s : State) : (countDown s).tbLong = s.tbLong := rfl
@[simp] theorem countDown_rdValid (s : State) : (countDown s).rdValid = s.rdValid := rfl
@[simp] theorem countDown_statusCode (s : State) : (countDown s).statusCode = s.statusCode := rfl
@[simp] theorem countDown_humRaw (s : State) : (countDown s).humRaw = s.humRaw := rfl
@[simp] theorem countDown_tempRaw (s : State) : (countDown s).tempRaw = s.tempRaw := rfl
@[simp] theorem countDown_humPct (s : State) : (countDown s).humPct = s.humPct := rfl
@[simp] theorem countDown_tempC (s : State) : (countDown s).tempC = s.tempC := rfl
@[simp] theorem countDown_pay (s : State) : (countDown s).pay = s.pay := rfl
@[simp] theorem countDown_count (s : State) : (countDown s).count = s.count := rfl
@[simp] theorem countDown_present (s : State) : (countDown s).present = s.present := rfl
@[simp] theorem countDown_sclO (s : State) : (countDown s).sclO = s.sclO := rfl
@[simp] theorem countDown_sdaO (s : State) : (countDown s).sdaO = s.sdaO := rfl
@[simp] theorem countDown_buf (s : State) : (countDown s).buf = s.buf := rfl
@[simp] theorem countDown_xdir (s : State) : (countDown s).xdir = s.xdir := rfl
@[simp] theorem countDown_xaddr (s : State) : (countDown s).xaddr = s.xaddr := rfl
@[simp] theorem countDown_xlen (s : State) : (countDown s).xlen = s.xlen := rfl
@[simp] theorem countDown_xb (s : State) : (countDown s).xb = s.xb := rfl
@[simp] theorem countDown_xsel (s : State) : (countDown s).xsel = s.xsel := rfl
@[simp] theorem countDown_xidx (s : State) : (countDown s).xidx = s.xidx := rfl
@[simp] theorem countDown_cnt (s : State) : (countDown s).cnt = s.cnt - 1 := rfl
@[simp] theorem countDown_saddr (s : State) : (countDown s).saddr = s.saddr := rfl
@[simp] theorem countDown_opBudget (s : State) : (countDown s).opBudget = s.opBudget := rfl
@[simp] theorem countDown_opShort (s : State) : (countDown s).opShort = s.opShort := rfl
@[simp] theorem countDown_opLong (s : State) : (countDown s).opLong = s.opLong := rfl
@[simp] theorem countDown_trace (s : State) : (countDown s).trace = s.trace := rfl
@[simp] theorem countDown_inbox (s : State) : (countDown s).inbox = s.inbox := rfl
@[simp] theorem countDown_caller (s : State) : (countDown s).caller = s.caller := rfl
@[simp] theorem countDown_reads (s : State) : (countDown s).reads = s.reads := rfl
@[simp] theorem countDown_upc (s : State) : (countDown s).upc = s.upc := rfl
@[simp] theorem countDown_xcode (s : State) : (countDown s).xcode = s.xcode := rfl
@[simp] theorem countDown_payValid (s : State) : (countDown s).payValid = s.payValid := rfl
@[simp] theorem countDown_flagsIn (s : State) : (countDown s).flagsIn = s.flagsIn := rfl
@[simp] theorem countDown_rxIn (s : State) : (countDown s).rxIn = s.rxIn := rfl
@[simp] theorem countDown_nSmp (s : State) : (countDown s).nSmp = s.nSmp := rfl
@[simp] theorem countDown_nRx (s : State) : (countDown s).nRx = s.nRx := rfl
@[simp] theorem countDown_draws (s : State) : (countDown s).draws = s.draws := rfl
@[simp] theorem countDown_epoch (s : State) : (countDown s).epoch = s.epoch := rfl

/-! ### setXidx -/

@[simp] theorem setXidx_cmd (n : Nat) (s : State) : (setXidx n s).cmd = s.cmd := rfl
@[simp] theorem setXidx_busy (n : Nat) (s : State) : (setXidx n s).busy = s.busy := rfl
@[simp] theorem setXidx_done (n : Nat) (s : State) : (setXidx n s).done = s.done := rfl
@[simp] theorem setXidx_desync (n : Nat) (s : State) : (setXidx n s).desync = s.desync := rfl
@[simp] theorem setXidx_pinOvr (n : Nat) (s : State) : (setXidx n s).pinOvr = s.pinOvr := rfl
@[simp] theorem setXidx_cmdOvr (n : Nat) (s : State) : (setXidx n s).cmdOvr = s.cmdOvr := rfl
@[simp] theorem setXidx_ackpol (n : Nat) (s : State) : (setXidx n s).ackpol = s.ackpol := rfl
@[simp] theorem setXidx_opcur (n : Nat) (s : State) : (setXidx n s).opcur = s.opcur := rfl
@[simp] theorem setXidx_estate (n : Nat) (s : State) : (setXidx n s).estate = s.estate := rfl
@[simp] theorem setXidx_dstate (n : Nat) (s : State) : (setXidx n s).dstate = s.dstate := rfl
@[simp] theorem setXidx_rstate (n : Nat) (s : State) : (setXidx n s).rstate = s.rstate := rfl
@[simp] theorem setXidx_pulse (n : Nat) (s : State) : (setXidx n s).pulse = s.pulse := rfl
@[simp] theorem setXidx_result (n : Nat) (s : State) : (setXidx n s).result = s.result := rfl
@[simp] theorem setXidx_tbudget (n : Nat) (s : State) : (setXidx n s).tbudget = s.tbudget := rfl
@[simp] theorem setXidx_tbShort (n : Nat) (s : State) : (setXidx n s).tbShort = s.tbShort := rfl
@[simp] theorem setXidx_tbLong (n : Nat) (s : State) : (setXidx n s).tbLong = s.tbLong := rfl
@[simp] theorem setXidx_rdValid (n : Nat) (s : State) : (setXidx n s).rdValid = s.rdValid := rfl
@[simp] theorem setXidx_statusCode (n : Nat) (s : State) : (setXidx n s).statusCode = s.statusCode := rfl
@[simp] theorem setXidx_humRaw (n : Nat) (s : State) : (setXidx n s).humRaw = s.humRaw := rfl
@[simp] theorem setXidx_tempRaw (n : Nat) (s : State) : (setXidx n s).tempRaw = s.tempRaw := rfl
@[simp] theorem setXidx_humPct (n : Nat) (s : State) : (setXidx n s).humPct = s.humPct := rfl
@[simp] theorem setXidx_tempC (n : Nat) (s : State) : (setXidx n s).tempC = s.tempC := rfl
@[simp] theorem setXidx_pay (n : Nat) (s : State) : (setXidx n s).pay = s.pay := rfl
@[simp] theorem setXidx_count (n : Nat) (s : State) : (setXidx n s).count = s.count := rfl
@[simp] theorem setXidx_present (n : Nat) (s : State) : (setXidx n s).present = s.present := rfl
@[simp] theorem setXidx_sclO (n : Nat) (s : State) : (setXidx n s).sclO = s.sclO := rfl
@[simp] theorem setXidx_sdaO (n : Nat) (s : State) : (setXidx n s).sdaO = s.sdaO := rfl
@[simp] theorem setXidx_buf (n : Nat) (s : State) : (setXidx n s).buf = s.buf := rfl
@[simp] theorem setXidx_xdir (n : Nat) (s : State) : (setXidx n s).xdir = s.xdir := rfl
@[simp] theorem setXidx_xaddr (n : Nat) (s : State) : (setXidx n s).xaddr = s.xaddr := rfl
@[simp] theorem setXidx_xlen (n : Nat) (s : State) : (setXidx n s).xlen = s.xlen := rfl
@[simp] theorem setXidx_xb (n : Nat) (s : State) : (setXidx n s).xb = s.xb := rfl
@[simp] theorem setXidx_xsel (n : Nat) (s : State) : (setXidx n s).xsel = s.xsel := rfl
@[simp] theorem setXidx_xidx (n : Nat) (s : State) : (setXidx n s).xidx = BitVec.ofNat 8 n := rfl
@[simp] theorem setXidx_cnt (n : Nat) (s : State) : (setXidx n s).cnt = s.cnt := rfl
@[simp] theorem setXidx_saddr (n : Nat) (s : State) : (setXidx n s).saddr = s.saddr := rfl
@[simp] theorem setXidx_opBudget (n : Nat) (s : State) : (setXidx n s).opBudget = s.opBudget := rfl
@[simp] theorem setXidx_opShort (n : Nat) (s : State) : (setXidx n s).opShort = s.opShort := rfl
@[simp] theorem setXidx_opLong (n : Nat) (s : State) : (setXidx n s).opLong = s.opLong := rfl
@[simp] theorem setXidx_trace (n : Nat) (s : State) : (setXidx n s).trace = s.trace := rfl
@[simp] theorem setXidx_inbox (n : Nat) (s : State) : (setXidx n s).inbox = s.inbox := rfl
@[simp] theorem setXidx_caller (n : Nat) (s : State) : (setXidx n s).caller = s.caller := rfl
@[simp] theorem setXidx_reads (n : Nat) (s : State) : (setXidx n s).reads = s.reads := rfl
@[simp] theorem setXidx_upc (n : Nat) (s : State) : (setXidx n s).upc = s.upc := rfl
@[simp] theorem setXidx_xcode (n : Nat) (s : State) : (setXidx n s).xcode = s.xcode := rfl
@[simp] theorem setXidx_payValid (n : Nat) (s : State) : (setXidx n s).payValid = s.payValid := rfl
@[simp] theorem setXidx_flagsIn (n : Nat) (s : State) : (setXidx n s).flagsIn = s.flagsIn := rfl
@[simp] theorem setXidx_rxIn (n : Nat) (s : State) : (setXidx n s).rxIn = s.rxIn := rfl
@[simp] theorem setXidx_nSmp (n : Nat) (s : State) : (setXidx n s).nSmp = s.nSmp := rfl
@[simp] theorem setXidx_nRx (n : Nat) (s : State) : (setXidx n s).nRx = s.nRx := rfl
@[simp] theorem setXidx_draws (n : Nat) (s : State) : (setXidx n s).draws = s.draws := rfl
@[simp] theorem setXidx_epoch (n : Nat) (s : State) : (setXidx n s).epoch = s.epoch := rfl

/-! ### goTo -/

@[simp] theorem goTo_cmd (u : Upc) (s : State) : (goTo u s).cmd = s.cmd := rfl
@[simp] theorem goTo_busy (u : Upc) (s : State) : (goTo u s).busy = s.busy := rfl
@[simp] theorem goTo_done (u : Upc) (s : State) : (goTo u s).done = s.done := rfl
@[simp] theorem goTo_desync (u : Upc) (s : State) : (goTo u s).desync = s.desync := rfl
@[simp] theorem goTo_pinOvr (u : Upc) (s : State) : (goTo u s).pinOvr = s.pinOvr := rfl
@[simp] theorem goTo_cmdOvr (u : Upc) (s : State) : (goTo u s).cmdOvr = s.cmdOvr := rfl
@[simp] theorem goTo_ackpol (u : Upc) (s : State) : (goTo u s).ackpol = s.ackpol := rfl
@[simp] theorem goTo_opcur (u : Upc) (s : State) : (goTo u s).opcur = s.opcur := rfl
@[simp] theorem goTo_estate (u : Upc) (s : State) : (goTo u s).estate = s.estate := rfl
@[simp] theorem goTo_dstate (u : Upc) (s : State) : (goTo u s).dstate = s.dstate := rfl
@[simp] theorem goTo_rstate (u : Upc) (s : State) : (goTo u s).rstate = s.rstate := rfl
@[simp] theorem goTo_pulse (u : Upc) (s : State) : (goTo u s).pulse = s.pulse := rfl
@[simp] theorem goTo_result (u : Upc) (s : State) : (goTo u s).result = s.result := rfl
@[simp] theorem goTo_tbudget (u : Upc) (s : State) : (goTo u s).tbudget = s.tbudget := rfl
@[simp] theorem goTo_tbShort (u : Upc) (s : State) : (goTo u s).tbShort = s.tbShort := rfl
@[simp] theorem goTo_tbLong (u : Upc) (s : State) : (goTo u s).tbLong = s.tbLong := rfl
@[simp] theorem goTo_rdValid (u : Upc) (s : State) : (goTo u s).rdValid = s.rdValid := rfl
@[simp] theorem goTo_statusCode (u : Upc) (s : State) : (goTo u s).statusCode = s.statusCode := rfl
@[simp] theorem goTo_humRaw (u : Upc) (s : State) : (goTo u s).humRaw = s.humRaw := rfl
@[simp] theorem goTo_tempRaw (u : Upc) (s : State) : (goTo u s).tempRaw = s.tempRaw := rfl
@[simp] theorem goTo_humPct (u : Upc) (s : State) : (goTo u s).humPct = s.humPct := rfl
@[simp] theorem goTo_tempC (u : Upc) (s : State) : (goTo u s).tempC = s.tempC := rfl
@[simp] theorem goTo_pay (u : Upc) (s : State) : (goTo u s).pay = s.pay := rfl
@[simp] theorem goTo_count (u : Upc) (s : State) : (goTo u s).count = s.count := rfl
@[simp] theorem goTo_present (u : Upc) (s : State) : (goTo u s).present = s.present := rfl
@[simp] theorem goTo_sclO (u : Upc) (s : State) : (goTo u s).sclO = s.sclO := rfl
@[simp] theorem goTo_sdaO (u : Upc) (s : State) : (goTo u s).sdaO = s.sdaO := rfl
@[simp] theorem goTo_buf (u : Upc) (s : State) : (goTo u s).buf = s.buf := rfl
@[simp] theorem goTo_xdir (u : Upc) (s : State) : (goTo u s).xdir = s.xdir := rfl
@[simp] theorem goTo_xaddr (u : Upc) (s : State) : (goTo u s).xaddr = s.xaddr := rfl
@[simp] theorem goTo_xlen (u : Upc) (s : State) : (goTo u s).xlen = s.xlen := rfl
@[simp] theorem goTo_xb (u : Upc) (s : State) : (goTo u s).xb = s.xb := rfl
@[simp] theorem goTo_xsel (u : Upc) (s : State) : (goTo u s).xsel = s.xsel := rfl
@[simp] theorem goTo_xidx (u : Upc) (s : State) : (goTo u s).xidx = s.xidx := rfl
@[simp] theorem goTo_cnt (u : Upc) (s : State) : (goTo u s).cnt = s.cnt := rfl
@[simp] theorem goTo_saddr (u : Upc) (s : State) : (goTo u s).saddr = s.saddr := rfl
@[simp] theorem goTo_opBudget (u : Upc) (s : State) : (goTo u s).opBudget = s.opBudget := rfl
@[simp] theorem goTo_opShort (u : Upc) (s : State) : (goTo u s).opShort = s.opShort := rfl
@[simp] theorem goTo_opLong (u : Upc) (s : State) : (goTo u s).opLong = s.opLong := rfl
@[simp] theorem goTo_trace (u : Upc) (s : State) : (goTo u s).trace = s.trace := rfl
@[simp] theorem goTo_inbox (u : Upc) (s : State) : (goTo u s).inbox = s.inbox := rfl
@[simp] theorem goTo_caller (u : Upc) (s : State) : (goTo u s).caller = s.caller := rfl
@[simp] theorem goTo_reads (u : Upc) (s : State) : (goTo u s).reads = s.reads := rfl
@[simp] theorem goTo_upc (u : Upc) (s : State) : (goTo u s).upc = u := rfl
@[simp] theorem goTo_xcode (u : Upc) (s : State) : (goTo u s).xcode = s.xcode := rfl
@[simp] theorem goTo_payValid (u : Upc) (s : State) : (goTo u s).payValid = s.payValid := rfl
@[simp] theorem goTo_flagsIn (u : Upc) (s : State) : (goTo u s).flagsIn = s.flagsIn := rfl
@[simp] theorem goTo_rxIn (u : Upc) (s : State) : (goTo u s).rxIn = s.rxIn := rfl
@[simp] theorem goTo_nSmp (u : Upc) (s : State) : (goTo u s).nSmp = s.nSmp := rfl
@[simp] theorem goTo_nRx (u : Upc) (s : State) : (goTo u s).nRx = s.nRx := rfl
@[simp] theorem goTo_draws (u : Upc) (s : State) : (goTo u s).draws = s.draws := rfl
@[simp] theorem goTo_epoch (u : Upc) (s : State) : (goTo u s).epoch = s.epoch := rfl

/-! ### takeWord -/

@[simp] theorem takeWord_cmd (w : Word) (s : State) : (takeWord w s).cmd = w := rfl
@[simp] theorem takeWord_busy (w : Word) (s : State) : (takeWord w s).busy = s.busy := rfl
@[simp] theorem takeWord_done (w : Word) (s : State) : (takeWord w s).done = false := rfl
@[simp] theorem takeWord_desync (w : Word) (s : State) : (takeWord w s).desync = s.desync := rfl
@[simp] theorem takeWord_pinOvr (w : Word) (s : State) : (takeWord w s).pinOvr = s.pinOvr := rfl
@[simp] theorem takeWord_cmdOvr (w : Word) (s : State) : (takeWord w s).cmdOvr = false := rfl
@[simp] theorem takeWord_ackpol (w : Word) (s : State) : (takeWord w s).ackpol = s.ackpol := rfl
@[simp] theorem takeWord_opcur (w : Word) (s : State) : (takeWord w s).opcur = opField w := rfl
@[simp] theorem takeWord_estate (w : Word) (s : State) : (takeWord w s).estate = s.estate := rfl
@[simp] theorem takeWord_dstate (w : Word) (s : State) : (takeWord w s).dstate = s.dstate := rfl
@[simp] theorem takeWord_rstate (w : Word) (s : State) : (takeWord w s).rstate = s.rstate := rfl
@[simp] theorem takeWord_pulse (w : Word) (s : State) : (takeWord w s).pulse = s.pulse := rfl
@[simp] theorem takeWord_result (w : Word) (s : State) : (takeWord w s).result = s.result := rfl
@[simp] theorem takeWord_tbudget (w : Word) (s : State) : (takeWord w s).tbudget = s.tbudget := rfl
@[simp] theorem takeWord_tbShort (w : Word) (s : State) : (takeWord w s).tbShort = s.tbShort := rfl
@[simp] theorem takeWord_tbLong (w : Word) (s : State) : (takeWord w s).tbLong = s.tbLong := rfl
@[simp] theorem takeWord_rdValid (w : Word) (s : State) : (takeWord w s).rdValid = s.rdValid := rfl
@[simp] theorem takeWord_statusCode (w : Word) (s : State) : (takeWord w s).statusCode = s.statusCode := rfl
@[simp] theorem takeWord_humRaw (w : Word) (s : State) : (takeWord w s).humRaw = s.humRaw := rfl
@[simp] theorem takeWord_tempRaw (w : Word) (s : State) : (takeWord w s).tempRaw = s.tempRaw := rfl
@[simp] theorem takeWord_humPct (w : Word) (s : State) : (takeWord w s).humPct = s.humPct := rfl
@[simp] theorem takeWord_tempC (w : Word) (s : State) : (takeWord w s).tempC = s.tempC := rfl
@[simp] theorem takeWord_pay (w : Word) (s : State) : (takeWord w s).pay = s.pay := rfl
@[simp] theorem takeWord_count (w : Word) (s : State) : (takeWord w s).count = s.count := rfl
@[simp] theorem takeWord_present (w : Word) (s : State) : (takeWord w s).present = s.present := rfl
@[simp] theorem takeWord_sclO (w : Word) (s : State) : (takeWord w s).sclO = s.sclO := rfl
@[simp] theorem takeWord_sdaO (w : Word) (s : State) : (takeWord w s).sdaO = s.sdaO := rfl
@[simp] theorem takeWord_buf (w : Word) (s : State) : (takeWord w s).buf = s.buf := rfl
@[simp] theorem takeWord_xdir (w : Word) (s : State) : (takeWord w s).xdir = s.xdir := rfl
@[simp] theorem takeWord_xaddr (w : Word) (s : State) : (takeWord w s).xaddr = s.xaddr := rfl
@[simp] theorem takeWord_xlen (w : Word) (s : State) : (takeWord w s).xlen = s.xlen := rfl
@[simp] theorem takeWord_xb (w : Word) (s : State) : (takeWord w s).xb = s.xb := rfl
@[simp] theorem takeWord_xsel (w : Word) (s : State) : (takeWord w s).xsel = s.xsel := rfl
@[simp] theorem takeWord_xidx (w : Word) (s : State) : (takeWord w s).xidx = s.xidx := rfl
@[simp] theorem takeWord_cnt (w : Word) (s : State) : (takeWord w s).cnt = s.cnt := rfl
@[simp] theorem takeWord_saddr (w : Word) (s : State) : (takeWord w s).saddr = s.saddr := rfl
@[simp] theorem takeWord_opBudget (w : Word) (s : State) : (takeWord w s).opBudget = s.opBudget := rfl
@[simp] theorem takeWord_opShort (w : Word) (s : State) : (takeWord w s).opShort = s.opShort := rfl
@[simp] theorem takeWord_opLong (w : Word) (s : State) : (takeWord w s).opLong = s.opLong := rfl
@[simp] theorem takeWord_trace (w : Word) (s : State) : (takeWord w s).trace = s.trace ++ [.cmd w] := rfl
@[simp] theorem takeWord_inbox (w : Word) (s : State) : (takeWord w s).inbox = s.inbox := rfl
@[simp] theorem takeWord_caller (w : Word) (s : State) : (takeWord w s).caller = s.caller := rfl
@[simp] theorem takeWord_reads (w : Word) (s : State) : (takeWord w s).reads = s.reads := rfl
@[simp] theorem takeWord_upc (w : Word) (s : State) : (takeWord w s).upc = s.upc := rfl
@[simp] theorem takeWord_xcode (w : Word) (s : State) : (takeWord w s).xcode = s.xcode := rfl
@[simp] theorem takeWord_payValid (w : Word) (s : State) : (takeWord w s).payValid = s.payValid := rfl
@[simp] theorem takeWord_flagsIn (w : Word) (s : State) : (takeWord w s).flagsIn = s.flagsIn := rfl
@[simp] theorem takeWord_rxIn (w : Word) (s : State) : (takeWord w s).rxIn = s.rxIn := rfl
@[simp] theorem takeWord_nSmp (w : Word) (s : State) : (takeWord w s).nSmp = s.nSmp := rfl
@[simp] theorem takeWord_nRx (w : Word) (s : State) : (takeWord w s).nRx = s.nRx := rfl
@[simp] theorem takeWord_draws (w : Word) (s : State) : (takeWord w s).draws = s.draws := rfl
@[simp] theorem takeWord_epoch (w : Word) (s : State) : (takeWord w s).epoch = s.epoch := rfl

/-! ### complete -/

@[simp] theorem complete_cmd (r : Result) (s : State) : (complete r s).cmd = s.cmd := rfl
@[simp] theorem complete_busy (r : Result) (s : State) : (complete r s).busy = false := rfl
@[simp] theorem complete_done (r : Result) (s : State) : (complete r s).done = true := rfl
@[simp] theorem complete_desync (r : Result) (s : State) : (complete r s).desync = s.desync := rfl
@[simp] theorem complete_pinOvr (r : Result) (s : State) : (complete r s).pinOvr = s.pinOvr := rfl
@[simp] theorem complete_cmdOvr (r : Result) (s : State) : (complete r s).cmdOvr = s.cmdOvr := rfl
@[simp] theorem complete_ackpol (r : Result) (s : State) : (complete r s).ackpol = s.ackpol := rfl
@[simp] theorem complete_opcur (r : Result) (s : State) : (complete r s).opcur = s.opcur := rfl
@[simp] theorem complete_estate (r : Result) (s : State) : (complete r s).estate = s.estate := rfl
@[simp] theorem complete_dstate (r : Result) (s : State) : (complete r s).dstate = s.dstate := rfl
@[simp] theorem complete_rstate (r : Result) (s : State) : (complete r s).rstate = s.rstate := rfl
@[simp] theorem complete_pulse (r : Result) (s : State) : (complete r s).pulse = s.pulse := rfl
@[simp] theorem complete_result (r : Result) (s : State) : (complete r s).result = r := rfl
@[simp] theorem complete_tbudget (r : Result) (s : State) : (complete r s).tbudget = s.tbudget := rfl
@[simp] theorem complete_tbShort (r : Result) (s : State) : (complete r s).tbShort = s.tbShort := rfl
@[simp] theorem complete_tbLong (r : Result) (s : State) : (complete r s).tbLong = s.tbLong := rfl
@[simp] theorem complete_rdValid (r : Result) (s : State) : (complete r s).rdValid = s.rdValid := rfl
@[simp] theorem complete_statusCode (r : Result) (s : State) : (complete r s).statusCode = s.statusCode := rfl
@[simp] theorem complete_humRaw (r : Result) (s : State) : (complete r s).humRaw = s.humRaw := rfl
@[simp] theorem complete_tempRaw (r : Result) (s : State) : (complete r s).tempRaw = s.tempRaw := rfl
@[simp] theorem complete_humPct (r : Result) (s : State) : (complete r s).humPct = s.humPct := rfl
@[simp] theorem complete_tempC (r : Result) (s : State) : (complete r s).tempC = s.tempC := rfl
@[simp] theorem complete_pay (r : Result) (s : State) : (complete r s).pay = s.pay := rfl
@[simp] theorem complete_count (r : Result) (s : State) : (complete r s).count = s.count := rfl
@[simp] theorem complete_present (r : Result) (s : State) : (complete r s).present = s.present := rfl
@[simp] theorem complete_sclO (r : Result) (s : State) : (complete r s).sclO = s.sclO := rfl
@[simp] theorem complete_sdaO (r : Result) (s : State) : (complete r s).sdaO = s.sdaO := rfl
@[simp] theorem complete_buf (r : Result) (s : State) : (complete r s).buf = s.buf := rfl
@[simp] theorem complete_xdir (r : Result) (s : State) : (complete r s).xdir = s.xdir := rfl
@[simp] theorem complete_xaddr (r : Result) (s : State) : (complete r s).xaddr = s.xaddr := rfl
@[simp] theorem complete_xlen (r : Result) (s : State) : (complete r s).xlen = s.xlen := rfl
@[simp] theorem complete_xb (r : Result) (s : State) : (complete r s).xb = s.xb := rfl
@[simp] theorem complete_xsel (r : Result) (s : State) : (complete r s).xsel = s.xsel := rfl
@[simp] theorem complete_xidx (r : Result) (s : State) : (complete r s).xidx = s.xidx := rfl
@[simp] theorem complete_cnt (r : Result) (s : State) : (complete r s).cnt = s.cnt := rfl
@[simp] theorem complete_saddr (r : Result) (s : State) : (complete r s).saddr = s.saddr := rfl
@[simp] theorem complete_opBudget (r : Result) (s : State) : (complete r s).opBudget = s.opBudget := rfl
@[simp] theorem complete_opShort (r : Result) (s : State) : (complete r s).opShort = s.opShort := rfl
@[simp] theorem complete_opLong (r : Result) (s : State) : (complete r s).opLong = s.opLong := rfl
@[simp] theorem complete_trace (r : Result) (s : State) : (complete r s).trace = s.trace ++ [.ret r] := rfl
@[simp] theorem complete_inbox (r : Result) (s : State) : (complete r s).inbox = s.inbox := rfl
@[simp] theorem complete_caller (r : Result) (s : State) : (complete r s).caller = s.caller := rfl
@[simp] theorem complete_reads (r : Result) (s : State) : (complete r s).reads = s.reads := rfl
@[simp] theorem complete_upc (r : Result) (s : State) : (complete r s).upc = .idle := rfl
@[simp] theorem complete_xcode (r : Result) (s : State) : (complete r s).xcode = s.xcode := rfl
@[simp] theorem complete_payValid (r : Result) (s : State) : (complete r s).payValid = s.payValid := rfl
@[simp] theorem complete_flagsIn (r : Result) (s : State) : (complete r s).flagsIn = s.flagsIn := rfl
@[simp] theorem complete_rxIn (r : Result) (s : State) : (complete r s).rxIn = s.rxIn := rfl
@[simp] theorem complete_nSmp (r : Result) (s : State) : (complete r s).nSmp = s.nSmp := rfl
@[simp] theorem complete_nRx (r : Result) (s : State) : (complete r s).nRx = s.nRx := rfl
@[simp] theorem complete_draws (r : Result) (s : State) : (complete r s).draws = s.draws := rfl
@[simp] theorem complete_epoch (r : Result) (s : State) : (complete r s).epoch = s.epoch := rfl

/-! ### refuseWord -/

@[simp] theorem refuseWord_cmd (s : State) : (refuseWord s).cmd = s.cmd := rfl
@[simp] theorem refuseWord_busy (s : State) : (refuseWord s).busy = s.busy := rfl
@[simp] theorem refuseWord_done (s : State) : (refuseWord s).done = true := rfl
@[simp] theorem refuseWord_desync (s : State) : (refuseWord s).desync = s.desync := rfl
@[simp] theorem refuseWord_pinOvr (s : State) : (refuseWord s).pinOvr = s.pinOvr := rfl
@[simp] theorem refuseWord_cmdOvr (s : State) : (refuseWord s).cmdOvr = s.cmdOvr := rfl
@[simp] theorem refuseWord_ackpol (s : State) : (refuseWord s).ackpol = s.ackpol := rfl
@[simp] theorem refuseWord_opcur (s : State) : (refuseWord s).opcur = s.opcur := rfl
@[simp] theorem refuseWord_estate (s : State) : (refuseWord s).estate = s.estate := rfl
@[simp] theorem refuseWord_dstate (s : State) : (refuseWord s).dstate = s.dstate := rfl
@[simp] theorem refuseWord_rstate (s : State) : (refuseWord s).rstate = s.rstate := rfl
@[simp] theorem refuseWord_pulse (s : State) : (refuseWord s).pulse = s.pulse := rfl
@[simp] theorem refuseWord_result (s : State) : (refuseWord s).result = illegalResult := rfl
@[simp] theorem refuseWord_tbudget (s : State) : (refuseWord s).tbudget = s.tbudget := rfl
@[simp] theorem refuseWord_tbShort (s : State) : (refuseWord s).tbShort = s.tbShort := rfl
@[simp] theorem refuseWord_tbLong (s : State) : (refuseWord s).tbLong = s.tbLong := rfl
@[simp] theorem refuseWord_rdValid (s : State) : (refuseWord s).rdValid = s.rdValid := rfl
@[simp] theorem refuseWord_statusCode (s : State) : (refuseWord s).statusCode = s.statusCode := rfl
@[simp] theorem refuseWord_humRaw (s : State) : (refuseWord s).humRaw = s.humRaw := rfl
@[simp] theorem refuseWord_tempRaw (s : State) : (refuseWord s).tempRaw = s.tempRaw := rfl
@[simp] theorem refuseWord_humPct (s : State) : (refuseWord s).humPct = s.humPct := rfl
@[simp] theorem refuseWord_tempC (s : State) : (refuseWord s).tempC = s.tempC := rfl
@[simp] theorem refuseWord_pay (s : State) : (refuseWord s).pay = s.pay := rfl
@[simp] theorem refuseWord_count (s : State) : (refuseWord s).count = s.count := rfl
@[simp] theorem refuseWord_present (s : State) : (refuseWord s).present = s.present := rfl
@[simp] theorem refuseWord_sclO (s : State) : (refuseWord s).sclO = s.sclO := rfl
@[simp] theorem refuseWord_sdaO (s : State) : (refuseWord s).sdaO = s.sdaO := rfl
@[simp] theorem refuseWord_buf (s : State) : (refuseWord s).buf = s.buf := rfl
@[simp] theorem refuseWord_xdir (s : State) : (refuseWord s).xdir = s.xdir := rfl
@[simp] theorem refuseWord_xaddr (s : State) : (refuseWord s).xaddr = s.xaddr := rfl
@[simp] theorem refuseWord_xlen (s : State) : (refuseWord s).xlen = s.xlen := rfl
@[simp] theorem refuseWord_xb (s : State) : (refuseWord s).xb = s.xb := rfl
@[simp] theorem refuseWord_xsel (s : State) : (refuseWord s).xsel = s.xsel := rfl
@[simp] theorem refuseWord_xidx (s : State) : (refuseWord s).xidx = s.xidx := rfl
@[simp] theorem refuseWord_cnt (s : State) : (refuseWord s).cnt = s.cnt := rfl
@[simp] theorem refuseWord_saddr (s : State) : (refuseWord s).saddr = s.saddr := rfl
@[simp] theorem refuseWord_opBudget (s : State) : (refuseWord s).opBudget = s.opBudget := rfl
@[simp] theorem refuseWord_opShort (s : State) : (refuseWord s).opShort = s.opShort := rfl
@[simp] theorem refuseWord_opLong (s : State) : (refuseWord s).opLong = s.opLong := rfl
@[simp] theorem refuseWord_trace (s : State) : (refuseWord s).trace = s.trace ++ [.ret illegalResult] := rfl
@[simp] theorem refuseWord_inbox (s : State) : (refuseWord s).inbox = s.inbox := rfl
@[simp] theorem refuseWord_caller (s : State) : (refuseWord s).caller = s.caller := rfl
@[simp] theorem refuseWord_reads (s : State) : (refuseWord s).reads = s.reads := rfl
@[simp] theorem refuseWord_upc (s : State) : (refuseWord s).upc = s.upc := rfl
@[simp] theorem refuseWord_xcode (s : State) : (refuseWord s).xcode = s.xcode := rfl
@[simp] theorem refuseWord_payValid (s : State) : (refuseWord s).payValid = s.payValid := rfl
@[simp] theorem refuseWord_flagsIn (s : State) : (refuseWord s).flagsIn = s.flagsIn := rfl
@[simp] theorem refuseWord_rxIn (s : State) : (refuseWord s).rxIn = s.rxIn := rfl
@[simp] theorem refuseWord_nSmp (s : State) : (refuseWord s).nSmp = s.nSmp := rfl
@[simp] theorem refuseWord_nRx (s : State) : (refuseWord s).nRx = s.nRx := rfl
@[simp] theorem refuseWord_draws (s : State) : (refuseWord s).draws = s.draws := rfl
@[simp] theorem refuseWord_epoch (s : State) : (refuseWord s).epoch = s.epoch := rfl

/-! ### latchXact -/

@[simp] theorem latchXact_cmd (d : Dir) (a : BusAddr) (l : Byte) (b : Word) (sel : XSel) (s : State) : (latchXact d a l b sel s).cmd = s.cmd := rfl
@[simp] theorem latchXact_busy (d : Dir) (a : BusAddr) (l : Byte) (b : Word) (sel : XSel) (s : State) : (latchXact d a l b sel s).busy = s.busy := rfl
@[simp] theorem latchXact_done (d : Dir) (a : BusAddr) (l : Byte) (b : Word) (sel : XSel) (s : State) : (latchXact d a l b sel s).done = s.done := rfl
@[simp] theorem latchXact_desync (d : Dir) (a : BusAddr) (l : Byte) (b : Word) (sel : XSel) (s : State) : (latchXact d a l b sel s).desync = s.desync := rfl
@[simp] theorem latchXact_pinOvr (d : Dir) (a : BusAddr) (l : Byte) (b : Word) (sel : XSel) (s : State) : (latchXact d a l b sel s).pinOvr = s.pinOvr := rfl
@[simp] theorem latchXact_cmdOvr (d : Dir) (a : BusAddr) (l : Byte) (b : Word) (sel : XSel) (s : State) : (latchXact d a l b sel s).cmdOvr = s.cmdOvr := rfl
@[simp] theorem latchXact_ackpol (d : Dir) (a : BusAddr) (l : Byte) (b : Word) (sel : XSel) (s : State) : (latchXact d a l b sel s).ackpol = s.ackpol := rfl
@[simp] theorem latchXact_opcur (d : Dir) (a : BusAddr) (l : Byte) (b : Word) (sel : XSel) (s : State) : (latchXact d a l b sel s).opcur = s.opcur := rfl
@[simp] theorem latchXact_estate (d : Dir) (a : BusAddr) (l : Byte) (b : Word) (sel : XSel) (s : State) : (latchXact d a l b sel s).estate = s.estate := rfl
@[simp] theorem latchXact_dstate (d : Dir) (a : BusAddr) (l : Byte) (b : Word) (sel : XSel) (s : State) : (latchXact d a l b sel s).dstate = s.dstate := rfl
@[simp] theorem latchXact_rstate (d : Dir) (a : BusAddr) (l : Byte) (b : Word) (sel : XSel) (s : State) : (latchXact d a l b sel s).rstate = s.rstate := rfl
@[simp] theorem latchXact_pulse (d : Dir) (a : BusAddr) (l : Byte) (b : Word) (sel : XSel) (s : State) : (latchXact d a l b sel s).pulse = s.pulse := rfl
@[simp] theorem latchXact_result (d : Dir) (a : BusAddr) (l : Byte) (b : Word) (sel : XSel) (s : State) : (latchXact d a l b sel s).result = s.result := rfl
@[simp] theorem latchXact_tbudget (d : Dir) (a : BusAddr) (l : Byte) (b : Word) (sel : XSel) (s : State) : (latchXact d a l b sel s).tbudget = s.tbudget := rfl
@[simp] theorem latchXact_tbShort (d : Dir) (a : BusAddr) (l : Byte) (b : Word) (sel : XSel) (s : State) : (latchXact d a l b sel s).tbShort = s.tbShort := rfl
@[simp] theorem latchXact_tbLong (d : Dir) (a : BusAddr) (l : Byte) (b : Word) (sel : XSel) (s : State) : (latchXact d a l b sel s).tbLong = s.tbLong := rfl
@[simp] theorem latchXact_rdValid (d : Dir) (a : BusAddr) (l : Byte) (b : Word) (sel : XSel) (s : State) : (latchXact d a l b sel s).rdValid = s.rdValid := rfl
@[simp] theorem latchXact_statusCode (d : Dir) (a : BusAddr) (l : Byte) (b : Word) (sel : XSel) (s : State) : (latchXact d a l b sel s).statusCode = s.statusCode := rfl
@[simp] theorem latchXact_humRaw (d : Dir) (a : BusAddr) (l : Byte) (b : Word) (sel : XSel) (s : State) : (latchXact d a l b sel s).humRaw = s.humRaw := rfl
@[simp] theorem latchXact_tempRaw (d : Dir) (a : BusAddr) (l : Byte) (b : Word) (sel : XSel) (s : State) : (latchXact d a l b sel s).tempRaw = s.tempRaw := rfl
@[simp] theorem latchXact_humPct (d : Dir) (a : BusAddr) (l : Byte) (b : Word) (sel : XSel) (s : State) : (latchXact d a l b sel s).humPct = s.humPct := rfl
@[simp] theorem latchXact_tempC (d : Dir) (a : BusAddr) (l : Byte) (b : Word) (sel : XSel) (s : State) : (latchXact d a l b sel s).tempC = s.tempC := rfl
@[simp] theorem latchXact_pay (d : Dir) (a : BusAddr) (l : Byte) (b : Word) (sel : XSel) (s : State) : (latchXact d a l b sel s).pay = s.pay := rfl
@[simp] theorem latchXact_count (d : Dir) (a : BusAddr) (l : Byte) (b : Word) (sel : XSel) (s : State) : (latchXact d a l b sel s).count = s.count := rfl
@[simp] theorem latchXact_present (d : Dir) (a : BusAddr) (l : Byte) (b : Word) (sel : XSel) (s : State) : (latchXact d a l b sel s).present = s.present := rfl
@[simp] theorem latchXact_sclO (d : Dir) (a : BusAddr) (l : Byte) (b : Word) (sel : XSel) (s : State) : (latchXact d a l b sel s).sclO = s.sclO := rfl
@[simp] theorem latchXact_sdaO (d : Dir) (a : BusAddr) (l : Byte) (b : Word) (sel : XSel) (s : State) : (latchXact d a l b sel s).sdaO = s.sdaO := rfl
@[simp] theorem latchXact_buf (d : Dir) (a : BusAddr) (l : Byte) (b : Word) (sel : XSel) (s : State) : (latchXact d a l b sel s).buf = s.buf := rfl
@[simp] theorem latchXact_xdir (d : Dir) (a : BusAddr) (l : Byte) (b : Word) (sel : XSel) (s : State) : (latchXact d a l b sel s).xdir = d := rfl
@[simp] theorem latchXact_xaddr (d : Dir) (a : BusAddr) (l : Byte) (b : Word) (sel : XSel) (s : State) : (latchXact d a l b sel s).xaddr = a := rfl
@[simp] theorem latchXact_xlen (d : Dir) (a : BusAddr) (l : Byte) (b : Word) (sel : XSel) (s : State) : (latchXact d a l b sel s).xlen = l := rfl
@[simp] theorem latchXact_xb (d : Dir) (a : BusAddr) (l : Byte) (b : Word) (sel : XSel) (s : State) : (latchXact d a l b sel s).xb = b := rfl
@[simp] theorem latchXact_xsel (d : Dir) (a : BusAddr) (l : Byte) (b : Word) (sel : XSel) (s : State) : (latchXact d a l b sel s).xsel = sel := rfl
@[simp] theorem latchXact_xidx (d : Dir) (a : BusAddr) (l : Byte) (b : Word) (sel : XSel) (s : State) : (latchXact d a l b sel s).xidx = 0#8 := rfl
@[simp] theorem latchXact_cnt (d : Dir) (a : BusAddr) (l : Byte) (b : Word) (sel : XSel) (s : State) : (latchXact d a l b sel s).cnt = s.cnt := rfl
@[simp] theorem latchXact_saddr (d : Dir) (a : BusAddr) (l : Byte) (b : Word) (sel : XSel) (s : State) : (latchXact d a l b sel s).saddr = s.saddr := rfl
@[simp] theorem latchXact_opBudget (d : Dir) (a : BusAddr) (l : Byte) (b : Word) (sel : XSel) (s : State) : (latchXact d a l b sel s).opBudget = s.opBudget := rfl
@[simp] theorem latchXact_opShort (d : Dir) (a : BusAddr) (l : Byte) (b : Word) (sel : XSel) (s : State) : (latchXact d a l b sel s).opShort = s.opShort := rfl
@[simp] theorem latchXact_opLong (d : Dir) (a : BusAddr) (l : Byte) (b : Word) (sel : XSel) (s : State) : (latchXact d a l b sel s).opLong = s.opLong := rfl
@[simp] theorem latchXact_trace (d : Dir) (a : BusAddr) (l : Byte) (b : Word) (sel : XSel) (s : State) : (latchXact d a l b sel s).trace = s.trace := rfl
@[simp] theorem latchXact_inbox (d : Dir) (a : BusAddr) (l : Byte) (b : Word) (sel : XSel) (s : State) : (latchXact d a l b sel s).inbox = s.inbox := rfl
@[simp] theorem latchXact_caller (d : Dir) (a : BusAddr) (l : Byte) (b : Word) (sel : XSel) (s : State) : (latchXact d a l b sel s).caller = s.caller := rfl
@[simp] theorem latchXact_reads (d : Dir) (a : BusAddr) (l : Byte) (b : Word) (sel : XSel) (s : State) : (latchXact d a l b sel s).reads = s.reads := rfl
@[simp] theorem latchXact_upc (d : Dir) (a : BusAddr) (l : Byte) (b : Word) (sel : XSel) (s : State) : (latchXact d a l b sel s).upc = s.upc := rfl
@[simp] theorem latchXact_xcode (d : Dir) (a : BusAddr) (l : Byte) (b : Word) (sel : XSel) (s : State) : (latchXact d a l b sel s).xcode = s.xcode := rfl
@[simp] theorem latchXact_payValid (d : Dir) (a : BusAddr) (l : Byte) (b : Word) (sel : XSel) (s : State) : (latchXact d a l b sel s).payValid = s.payValid := rfl
@[simp] theorem latchXact_flagsIn (d : Dir) (a : BusAddr) (l : Byte) (b : Word) (sel : XSel) (s : State) : (latchXact d a l b sel s).flagsIn = s.flagsIn := rfl
@[simp] theorem latchXact_rxIn (d : Dir) (a : BusAddr) (l : Byte) (b : Word) (sel : XSel) (s : State) : (latchXact d a l b sel s).rxIn = s.rxIn := rfl
@[simp] theorem latchXact_nSmp (d : Dir) (a : BusAddr) (l : Byte) (b : Word) (sel : XSel) (s : State) : (latchXact d a l b sel s).nSmp = s.nSmp := rfl
@[simp] theorem latchXact_nRx (d : Dir) (a : BusAddr) (l : Byte) (b : Word) (sel : XSel) (s : State) : (latchXact d a l b sel s).nRx = s.nRx := rfl
@[simp] theorem latchXact_draws (d : Dir) (a : BusAddr) (l : Byte) (b : Word) (sel : XSel) (s : State) : (latchXact d a l b sel s).draws = s.draws := rfl
@[simp] theorem latchXact_epoch (d : Dir) (a : BusAddr) (l : Byte) (b : Word) (sel : XSel) (s : State) : (latchXact d a l b sel s).epoch = s.epoch := rfl

/-! ### The primitives as `emit` over the fields they write -/

@[simp] theorem luStart_eq (s : State) : luStart s = emit .start s := rfl
@[simp] theorem luStop_eq (s : State) : luStop s = emit .stop s := rfl
@[simp] theorem luTxWrite_eq (b : Byte) (s : State) : luTxWrite b s = emit (.tx b) s := rfl
@[simp] theorem luClearNack_eq (s : State) : luClearNack s = emit .nackClr s := rfl
@[simp] theorem luReinit_eq (s : State) : luReinit s = emit .reinit s := rfl
@[simp] theorem dly_eq (us : Nat) (s : State) : dly us s = emit (.dly us) s := rfl
theorem luSetAck_eq (p : Bool) (s : State) : luSetAck p s = { emit (.ack p) s with ackpol := p } := rfl
theorem pinDrive_eq (c d : Bool) (s : State) :
    pinDrive c d s = { emit (.pinDrv c d) s with pinOvr := true, sclO := c, sdaO := d } := rfl
theorem pinScl_eq (v : Bool) (s : State) : pinScl v s = { emit (.scl v) s with sclO := v } := rfl
theorem pinRelease_eq (s : State) : pinRelease s = { emit .pinRel s with pinOvr := false } := rfl

/-! ### acceptCommand: BUSY rises, the latches may change, nothing else does -/

@[simp] theorem acceptCommand_cmd (i : Instr) (s : State) : (acceptCommand i s).cmd = s.cmd := by cases i <;> rfl
@[simp] theorem acceptCommand_busy (i : Instr) (s : State) : (acceptCommand i s).busy = true := by cases i <;> rfl
@[simp] theorem acceptCommand_done (i : Instr) (s : State) : (acceptCommand i s).done = s.done := by cases i <;> rfl
@[simp] theorem acceptCommand_desync (i : Instr) (s : State) : (acceptCommand i s).desync = s.desync := by cases i <;> rfl
@[simp] theorem acceptCommand_pinOvr (i : Instr) (s : State) : (acceptCommand i s).pinOvr = s.pinOvr := by cases i <;> rfl
@[simp] theorem acceptCommand_cmdOvr (i : Instr) (s : State) : (acceptCommand i s).cmdOvr = s.cmdOvr := by cases i <;> rfl
@[simp] theorem acceptCommand_ackpol (i : Instr) (s : State) : (acceptCommand i s).ackpol = s.ackpol := by cases i <;> rfl
@[simp] theorem acceptCommand_opcur (i : Instr) (s : State) : (acceptCommand i s).opcur = s.opcur := by cases i <;> rfl
@[simp] theorem acceptCommand_estate (i : Instr) (s : State) : (acceptCommand i s).estate = s.estate := by cases i <;> rfl
@[simp] theorem acceptCommand_dstate (i : Instr) (s : State) : (acceptCommand i s).dstate = s.dstate := by cases i <;> rfl
@[simp] theorem acceptCommand_rstate (i : Instr) (s : State) : (acceptCommand i s).rstate = s.rstate := by cases i <;> rfl
@[simp] theorem acceptCommand_pulse (i : Instr) (s : State) : (acceptCommand i s).pulse = s.pulse := by cases i <;> rfl
@[simp] theorem acceptCommand_result (i : Instr) (s : State) : (acceptCommand i s).result = s.result := by cases i <;> rfl
@[simp] theorem acceptCommand_tbudget (i : Instr) (s : State) : (acceptCommand i s).tbudget = s.tbudget := by cases i <;> rfl
@[simp] theorem acceptCommand_tbShort (i : Instr) (s : State) : (acceptCommand i s).tbShort = s.tbShort := by cases i <;> rfl
@[simp] theorem acceptCommand_tbLong (i : Instr) (s : State) : (acceptCommand i s).tbLong = s.tbLong := by cases i <;> rfl
@[simp] theorem acceptCommand_rdValid (i : Instr) (s : State) : (acceptCommand i s).rdValid = s.rdValid := by cases i <;> rfl
@[simp] theorem acceptCommand_statusCode (i : Instr) (s : State) : (acceptCommand i s).statusCode = s.statusCode := by cases i <;> rfl
@[simp] theorem acceptCommand_humRaw (i : Instr) (s : State) : (acceptCommand i s).humRaw = s.humRaw := by cases i <;> rfl
@[simp] theorem acceptCommand_tempRaw (i : Instr) (s : State) : (acceptCommand i s).tempRaw = s.tempRaw := by cases i <;> rfl
@[simp] theorem acceptCommand_humPct (i : Instr) (s : State) : (acceptCommand i s).humPct = s.humPct := by cases i <;> rfl
@[simp] theorem acceptCommand_tempC (i : Instr) (s : State) : (acceptCommand i s).tempC = s.tempC := by cases i <;> rfl
@[simp] theorem acceptCommand_pay (i : Instr) (s : State) : (acceptCommand i s).pay = s.pay := by cases i <;> rfl
@[simp] theorem acceptCommand_count (i : Instr) (s : State) : (acceptCommand i s).count = s.count := by cases i <;> rfl
@[simp] theorem acceptCommand_present (i : Instr) (s : State) : (acceptCommand i s).present = s.present := by cases i <;> rfl
@[simp] theorem acceptCommand_sclO (i : Instr) (s : State) : (acceptCommand i s).sclO = s.sclO := by cases i <;> rfl
@[simp] theorem acceptCommand_sdaO (i : Instr) (s : State) : (acceptCommand i s).sdaO = s.sdaO := by cases i <;> rfl
@[simp] theorem acceptCommand_buf (i : Instr) (s : State) : (acceptCommand i s).buf = s.buf := by cases i <;> rfl
@[simp] theorem acceptCommand_xdir (i : Instr) (s : State) : (acceptCommand i s).xdir = s.xdir := by cases i <;> rfl
@[simp] theorem acceptCommand_xaddr (i : Instr) (s : State) : (acceptCommand i s).xaddr = s.xaddr := by cases i <;> rfl
@[simp] theorem acceptCommand_xlen (i : Instr) (s : State) : (acceptCommand i s).xlen = s.xlen := by cases i <;> rfl
@[simp] theorem acceptCommand_xsel (i : Instr) (s : State) : (acceptCommand i s).xsel = s.xsel := by cases i <;> rfl
@[simp] theorem acceptCommand_xidx (i : Instr) (s : State) : (acceptCommand i s).xidx = s.xidx := by cases i <;> rfl
@[simp] theorem acceptCommand_cnt (i : Instr) (s : State) : (acceptCommand i s).cnt = s.cnt := by cases i <;> rfl
@[simp] theorem acceptCommand_saddr (i : Instr) (s : State) : (acceptCommand i s).saddr = s.saddr := by cases i <;> rfl
@[simp] theorem acceptCommand_trace (i : Instr) (s : State) : (acceptCommand i s).trace = s.trace := by cases i <;> rfl
@[simp] theorem acceptCommand_inbox (i : Instr) (s : State) : (acceptCommand i s).inbox = s.inbox := by cases i <;> rfl
@[simp] theorem acceptCommand_caller (i : Instr) (s : State) : (acceptCommand i s).caller = s.caller := by cases i <;> rfl
@[simp] theorem acceptCommand_reads (i : Instr) (s : State) : (acceptCommand i s).reads = s.reads := by cases i <;> rfl
@[simp] theorem acceptCommand_upc (i : Instr) (s : State) : (acceptCommand i s).upc = s.upc := by cases i <;> rfl
@[simp] theorem acceptCommand_xcode (i : Instr) (s : State) : (acceptCommand i s).xcode = s.xcode := by cases i <;> rfl
@[simp] theorem acceptCommand_payValid (i : Instr) (s : State) : (acceptCommand i s).payValid = s.payValid := by cases i <;> rfl
@[simp] theorem acceptCommand_flagsIn (i : Instr) (s : State) : (acceptCommand i s).flagsIn = s.flagsIn := by cases i <;> rfl
@[simp] theorem acceptCommand_rxIn (i : Instr) (s : State) : (acceptCommand i s).rxIn = s.rxIn := by cases i <;> rfl
@[simp] theorem acceptCommand_nSmp (i : Instr) (s : State) : (acceptCommand i s).nSmp = s.nSmp := by cases i <;> rfl
@[simp] theorem acceptCommand_nRx (i : Instr) (s : State) : (acceptCommand i s).nRx = s.nRx := by cases i <;> rfl
@[simp] theorem acceptCommand_draws (i : Instr) (s : State) : (acceptCommand i s).draws = s.draws := by cases i <;> rfl
@[simp] theorem acceptCommand_epoch (i : Instr) (s : State) : (acceptCommand i s).epoch = s.epoch := by cases i <;> rfl

/-! ### Samples do not depend on what the CORE writes -/

@[simp] theorem nextFlags_emit (e : Event) (s : State) : nextFlags (emit e s) = nextFlags s := rfl
@[simp] theorem nextFlags_countDown (s : State) : nextFlags (countDown s) = nextFlags s := rfl
@[simp] theorem nextRx_emit (e : Event) (s : State) : nextRx (emit e s) = nextRx s := rfl
@[simp] theorem nextRx_luSample (s : State) : nextRx (luSample s) = nextRx s := rfl

end Sys2Proof.Machine
end

