-- ==== Sys2Proof/Laws/Memory.lean ====
section
/-! SUPPORT. BUF as memory: a read after a write, the canonical form, and that equal contents are equal data. -/

namespace Sys2Proof.Machine

theorem Memory.lookup_store_same (m : Memory) (a : Nat) (b : Byte) : (Memory.store m a b).lookup a = some b := by
  induction m with
  | nil => simp [Memory.store, Memory.lookup]
  | cons c m ih =>
    obtain ⟨a', b'⟩ := c
    simp only [Memory.store]
    split
    · simp [Memory.lookup]
    · split
      · simp [Memory.lookup]
      · simp [Memory.lookup, *]

theorem Memory.lookup_store_other (m : Memory) (a a' : Nat) (b : Byte) (h : a' ≠ a) :
    (Memory.store m a b).lookup a' = Memory.lookup m a' := by
  induction m with
  | nil => simp [Memory.store, Memory.lookup, h]
  | cons c m ih =>
    obtain ⟨x, y⟩ := c
    simp only [Memory.store]
    split
    · simp [Memory.lookup, h]
    · split
      · subst_vars; simp [Memory.lookup, h]
      · simp [Memory.lookup, ih]

theorem Memory.wfFrom_mono (m : Memory) (lo lo' : Nat) (h : lo' ≤ lo) (hm : Memory.wfFrom lo m = true) :
    Memory.wfFrom lo' m = true := by
  cases m with
  | nil => rfl
  | cons c m =>
    obtain ⟨a, b⟩ := c
    simp only [Memory.wfFrom, Bool.and_eq_true, decide_eq_true_eq] at hm ⊢
    exact ⟨⟨by omega, hm.1.2⟩, hm.2⟩

theorem Memory.wfFrom_store (m : Memory) (lo a : Nat) (b : Byte) (hm : Memory.wfFrom lo m = true) (ha : lo ≤ a)
    (hs : a < Config.bufSize) : Memory.wfFrom lo (Memory.store m a b) = true := by
  induction m generalizing lo with
  | nil => simp [Memory.store, Memory.wfFrom, ha, hs]
  | cons c m ih =>
    obtain ⟨x, y⟩ := c
    simp only [Memory.wfFrom, Bool.and_eq_true, decide_eq_true_eq] at hm
    simp only [Memory.store]
    split
    · simp only [Memory.wfFrom, Bool.and_eq_true, decide_eq_true_eq]
      exact ⟨⟨ha, hs⟩, ⟨by omega, hm.1.2⟩, hm.2⟩
    · split
      · subst_vars
        simp only [Memory.wfFrom, Bool.and_eq_true, decide_eq_true_eq]
        exact hm
      · simp only [Memory.wfFrom, Bool.and_eq_true, decide_eq_true_eq]
        exact ⟨hm.1, ih (x + 1) hm.2 (by omega)⟩

/-- A store to an existing byte keeps the canonical form. -/
theorem Memory.wf_store (m : Memory) (a : Nat) (b : Byte) (hm : Memory.wf m = true) (hs : a < Config.bufSize) :
    Memory.wf (Memory.store m a b) = true :=
  Memory.wfFrom_store m 0 a b hm (Nat.zero_le a) hs

theorem Memory.lookup_of_lt (m : Memory) (lo a : Nat) (hm : Memory.wfFrom lo m = true) (h : a < lo) :
    Memory.lookup m a = none := by
  induction m generalizing lo with
  | nil => rfl
  | cons c m ih =>
    obtain ⟨x, y⟩ := c
    simp only [Memory.wfFrom, Bool.and_eq_true, decide_eq_true_eq] at hm
    have hne : a ≠ x := by omega
    simp only [Memory.lookup, if_neg hne]
    exact ih (x + 1) hm.2 (by omega)

theorem Memory.eq_of_lookup_from (m n : Memory) (lo : Nat) (hm : Memory.wfFrom lo m = true)
    (hn : Memory.wfFrom lo n = true) (h : ∀ a, Memory.lookup m a = Memory.lookup n a) : m = n := by
  induction m generalizing n lo with
  | nil =>
    cases n with
    | nil => rfl
    | cons d n => have h1 := h d.1; simp [Memory.lookup] at h1
  | cons c m ih =>
    obtain ⟨x, y⟩ := c
    cases n with
    | nil => have h1 := h x; simp [Memory.lookup] at h1
    | cons d n =>
      obtain ⟨u, v⟩ := d
      simp only [Memory.wfFrom, Bool.and_eq_true, decide_eq_true_eq] at hm hn
      have hxu : x = u := by
        by_contra hne
        rcases Nat.lt_or_gt_of_ne hne with hlt | hlt
        · have h1 := h x
          have h2 := Memory.lookup_of_lt n (u + 1) x hn.2 (by omega)
          simp [Memory.lookup, hne, h2] at h1
        · have h1 := h u
          have h2 := Memory.lookup_of_lt m (x + 1) u hm.2 (by omega)
          have h3 : u ≠ x := fun e => hne e.symm
          simp [Memory.lookup, h3, h2] at h1
      subst hxu
      have hyv : y = v := by have h1 := h x; simpa [Memory.lookup] using h1
      subst hyv
      congr 1
      refine ih n (x + 1) hm.2 hn.2 fun a => ?_
      by_cases hax : a = x
      · subst hax
        rw [Memory.lookup_of_lt m (a + 1) a hm.2 (by omega), Memory.lookup_of_lt n (a + 1) a hn.2 (by omega)]
      · have h1 := h a
        simpa [Memory.lookup, hax] using h1

/-- Two canonical memories with the same contents are the same data. -/
theorem Memory.eq_of_lookup (m n : Memory) (hm : Memory.wf m = true) (hn : Memory.wf n = true)
    (h : ∀ a, Memory.lookup m a = Memory.lookup n a) : m = n :=
  Memory.eq_of_lookup_from m n 0 hm hn h

/-! ### bufStore and arrayStore -/

/-- What a store to BUF can change: the memory. -/
theorem bufStore_frame (i : Nat) (v : Byte) (s : State) : bufStore i v s = { s with buf := (bufStore i v s).buf } := by
  unfold bufStore
  split <;> rfl

theorem bufStore_of_lt (i : Nat) (v : Byte) (s : State) (h : i < Config.bufSize) :
    bufStore i v s = { s with buf := Memory.store s.buf i v } := by
  simp [bufStore, h]

theorem wf_bufStore (i : Nat) (v : Byte) (s : State) (h : Memory.wf s.buf = true) :
    Memory.wf (bufStore i v s).buf = true := by
  unfold bufStore
  split
  · exact Memory.wf_store _ _ _ h ‹_›
  · exact h

theorem bufByte_bufStore_same (i : Nat) (v : Byte) (s : State) (h : i < Config.bufSize) :
    bufByte (bufStore i v s) i = v := by
  simp [bufStore, h, bufByte, Memory.lookup_store_same]

theorem bufByte_bufStore_other (i j : Nat) (v : Byte) (s : State) (h : j ≠ i) :
    bufByte (bufStore i v s) j = bufByte s j := by
  unfold bufStore
  split
  · simp [bufByte, Memory.lookup_store_other _ _ _ _ h]
  · rfl

/-- What a transaction's store can change: the array it names. -/
theorem arrayStore_frame (sel : XSel) (i : Nat) (v : Byte) (s : State) :
    arrayStore sel i v s = { s with buf := (arrayStore sel i v s).buf, pay := (arrayStore sel i v s).pay } := by
  cases sel with
  | buf => unfold arrayStore bufStore; dsimp only; split <;> rfl
  | pay => rfl
  | const b => rfl

theorem wf_arrayStore (sel : XSel) (i : Nat) (v : Byte) (s : State) (h : Memory.wf s.buf = true) :
    Memory.wf (arrayStore sel i v s).buf = true := by
  cases sel with
  | buf => exact wf_bufStore i v s h
  | pay => exact h
  | const b => exact h

theorem wf_hostWrite (off : Offset) (v : Word) (s : State) (h : Memory.wf s.buf = true) :
    Memory.wf (hostWrite off v s).buf = true := by
  unfold hostWrite
  repeat' split
  all_goals first | exact h | exact wf_bufStore _ _ _ h

theorem wf_reset : Memory.wf State.reset.buf = true := rfl

end Sys2Proof.Machine
end

