-- ==== Sys2Proof/Laws/Transaction.lean ====
section
/-! SUPPORT. What the TransactionEngine can do to the state, said once per operation: every field outside ESTATE, ACKPOL,
the byte arrays, XIDX, CNT, TRACE and ENV's answers is unchanged, TRACE only grows, BUF stays canonical; and the codes each
phase can answer. -/

namespace Sys2Proof.Machine

/-- The frame of the phases of rules R141 to R150. -/
structure EngineFrame (s t : State) : Prop where
  cmd : t.cmd = s.cmd
  busy : t.busy = s.busy
  done : t.done = s.done
  desync : t.desync = s.desync
  pinOvr : t.pinOvr = s.pinOvr
  cmdOvr : t.cmdOvr = s.cmdOvr
  opcur : t.opcur = s.opcur
  dstate : t.dstate = s.dstate
  rstate : t.rstate = s.rstate
  pulse : t.pulse = s.pulse
  result : t.result = s.result
  tbudget : t.tbudget = s.tbudget
  tbShort : t.tbShort = s.tbShort
  tbLong : t.tbLong = s.tbLong
  rdValid : t.rdValid = s.rdValid
  statusCode : t.statusCode = s.statusCode
  humRaw : t.humRaw = s.humRaw
  tempRaw : t.tempRaw = s.tempRaw
  humPct : t.humPct = s.humPct
  tempC : t.tempC = s.tempC
  count : t.count = s.count
  present : t.present = s.present
  sclO : t.sclO = s.sclO
  sdaO : t.sdaO = s.sdaO
  xdir : t.xdir = s.xdir
  xaddr : t.xaddr = s.xaddr
  xlen : t.xlen = s.xlen
  xb : t.xb = s.xb
  xsel : t.xsel = s.xsel
  saddr : t.saddr = s.saddr
  opBudget : t.opBudget = s.opBudget
  opShort : t.opShort = s.opShort
  opLong : t.opLong = s.opLong
  inbox : t.inbox = s.inbox
  caller : t.caller = s.caller
  reads : t.reads = s.reads
  upc : t.upc = s.upc
  xcode : t.xcode = s.xcode
  payValid : t.payValid = s.payValid
  draws : t.draws = s.draws
  epoch : t.epoch = s.epoch
  trace : s.trace <+: t.trace
  nSmp : s.nSmp ≤ t.nSmp
  nRx : s.nRx ≤ t.nRx
  wf : Memory.wf s.buf = true → Memory.wf t.buf = true

theorem EngineFrame.refl (s : State) : EngineFrame s s := by
  constructor <;> first | rfl | exact List.prefix_refl _ | exact Nat.le_refl _ | exact id

theorem EngineFrame.trans {s t u : State} (h : EngineFrame s t) (k : EngineFrame t u) : EngineFrame s u where
  cmd := k.cmd.trans h.cmd
  busy := k.busy.trans h.busy
  done := k.done.trans h.done
  desync := k.desync.trans h.desync
  pinOvr := k.pinOvr.trans h.pinOvr
  cmdOvr := k.cmdOvr.trans h.cmdOvr
  opcur := k.opcur.trans h.opcur
  dstate := k.dstate.trans h.dstate
  rstate := k.rstate.trans h.rstate
  pulse := k.pulse.trans h.pulse
  result := k.result.trans h.result
  tbudget := k.tbudget.trans h.tbudget
  tbShort := k.tbShort.trans h.tbShort
  tbLong := k.tbLong.trans h.tbLong
  rdValid := k.rdValid.trans h.rdValid
  statusCode := k.statusCode.trans h.statusCode
  humRaw := k.humRaw.trans h.humRaw
  tempRaw := k.tempRaw.trans h.tempRaw
  humPct := k.humPct.trans h.humPct
  tempC := k.tempC.trans h.tempC
  count := k.count.trans h.count
  present := k.present.trans h.present
  sclO := k.sclO.trans h.sclO
  sdaO := k.sdaO.trans h.sdaO
  xdir := k.xdir.trans h.xdir
  xaddr := k.xaddr.trans h.xaddr
  xlen := k.xlen.trans h.xlen
  xb := k.xb.trans h.xb
  xsel := k.xsel.trans h.xsel
  saddr := k.saddr.trans h.saddr
  opBudget := k.opBudget.trans h.opBudget
  opShort := k.opShort.trans h.opShort
  opLong := k.opLong.trans h.opLong
  inbox := k.inbox.trans h.inbox
  caller := k.caller.trans h.caller
  reads := k.reads.trans h.reads
  upc := k.upc.trans h.upc
  xcode := k.xcode.trans h.xcode
  payValid := k.payValid.trans h.payValid
  draws := k.draws.trans h.draws
  epoch := k.epoch.trans h.epoch
  trace := h.trace.trans k.trace
  nSmp := h.nSmp.trans k.nSmp
  nRx := h.nRx.trans k.nRx
  wf := k.wf ∘ h.wf

theorem emit_engine (e : Event) (s : State) : EngineFrame s (emit e s) := by
  constructor <;> first | rfl | exact List.prefix_append _ _ | exact Nat.le_refl _ | exact id

theorem luSample_engine (s : State) : EngineFrame s (luSample s) := by
  constructor <;> first | rfl | exact List.prefix_append _ _ | exact Nat.le_refl _ | exact Nat.le_succ _ | exact id

theorem luRxRead_engine (s : State) : EngineFrame s (luRxRead s) := by
  constructor <;> first | rfl | exact List.prefix_append _ _ | exact Nat.le_refl _ | exact Nat.le_succ _ | exact id

theorem luSetAck_engine (p : Bool) (s : State) : EngineFrame s (luSetAck p s) := by
  constructor <;> first | rfl | exact List.prefix_append _ _ | exact Nat.le_refl _ | exact id

theorem countDown_engine (s : State) : EngineFrame s (countDown s) := by
  constructor <;> first | rfl | exact List.prefix_refl _ | exact Nat.le_refl _ | exact id

theorem setXidx_engine (n : Nat) (s : State) : EngineFrame s (setXidx n s) := by
  constructor <;> first | rfl | exact List.prefix_refl _ | exact Nat.le_refl _ | exact id

theorem estate_engine (x : EState) (s : State) : EngineFrame s { s with estate := x } := by
  constructor <;> first | rfl | exact List.prefix_refl _ | exact Nat.le_refl _ | exact id

theorem arrayStore_engine (sel : XSel) (i : Nat) (v : Byte) (s : State) : EngineFrame s (arrayStore sel i v s) := by
  have hw : Memory.wf s.buf = true → Memory.wf (arrayStore sel i v s).buf = true := wf_arrayStore sel i v s
  constructor
  case wf => exact hw
  all_goals rw [arrayStore_frame]

theorem pollLoop_engine (c : PollCond) (watch : Bool) (n : Nat) (s : State) :
    EngineFrame s (pollLoop c watch n s).2 := by
  induction n generalizing s with
  | zero => exact .refl s
  | succ n ih =>
    unfold pollLoop
    split
    · exact luSample_engine s
    · exact ((luSample_engine s).trans (countDown_engine _)).trans (ih _)

theorem poll_engine (c : PollCond) (watch : Bool) (b : Word) (s : State) : EngineFrame s (poll c watch b s).2 := by
  have h : EngineFrame s { s with cnt := b } := by
    constructor <;> first | rfl | exact List.prefix_refl _ | exact Nat.le_refl _ | exact id
  exact h.trans (pollLoop_engine c watch _ _)

theorem failPlain_engine (c : Code) (s : State) : EngineFrame s (failPlain c s).2 := estate_engine _ s

theorem failNack_engine (c : Code) (s : State) : EngineFrame s (failNack c s).2 :=
  (((emit_engine _ s).trans (emit_engine _ _)).trans (emit_engine _ _)).trans (estate_engine _ _)

theorem andThen_engine {s : State} {r : Code × State} {k : State → Code × State} (h : EngineFrame s r.2)
    (hk : ∀ t, EngineFrame t (k t).2) : EngineFrame s (andThen r k).2 := by
  unfold andThen
  split
  · exact h.trans (hk _)
  · exact h

theorem waitBusFree_engine (b : Word) (s : State) : EngineFrame s (waitBusFree b s).2 := by
  have h := (estate_engine .waitFree s).trans (poll_engine .busFree false b _)
  unfold waitBusFree
  dsimp only
  split
  · have h2 := ((h.trans (emit_engine .stop _)).trans (emit_engine (.dly Config.tBusfreeRetry) _)).trans
      (luSample_engine _)
    split
    · exact h2.trans (failPlain_engine _ _)
    · exact h2
  · exact h

theorem startPhase_engine (d : Dir) (b : Word) (s : State) : EngineFrame s (startPhase d b s).2 := by
  have h0 : EngineFrame s (startAck d { s with estate := .start }) := by
    cases d with
    | write => exact estate_engine _ s
    | read => exact (estate_engine _ s).trans (luSetAck_engine _ _)
  have h := (h0.trans (emit_engine .start _)).trans (poll_engine .txReady false b _)
  unfold startPhase
  dsimp only
  split
  · exact h.trans (failPlain_engine _ _)
  · exact h

theorem addressPhase_engine (a : BusAddr) (d : Dir) (b : Word) (s : State) :
    EngineFrame s (addressPhase a d b s).2 := by
  have h := ((estate_engine .addr s).trans (emit_engine (.tx (addressByte a d)) _)).trans
    (poll_engine .txReady true b _)
  unfold addressPhase
  dsimp only
  split
  · exact h
  · exact h.trans (failNack_engine _ _)
  · exact h.trans (failPlain_engine _ _)

theorem dataTx_engine (v : Byte) (b : Word) (s : State) : EngineFrame s (dataTx v b s).2 := by
  have h := (emit_engine (.tx v) s).trans (poll_engine .txReady true b _)
  unfold dataTx
  dsimp only
  split
  · exact h
  · exact h.trans (failNack_engine _ _)
  · exact h.trans (failPlain_engine _ _)

theorem dataRx_engine (last : Bool) (sel : XSel) (i : Nat) (b : Word) (s : State) :
    EngineFrame s (dataRx last sel i b s).2 := by
  have h0 : EngineFrame s (lastAck last s) := by
    unfold lastAck
    split
    · exact luSetAck_engine _ _
    · exact .refl s
  have h := h0.trans (poll_engine .rxReady false b _)
  unfold dataRx
  dsimp only
  split
  · exact h.trans (failPlain_engine _ _)
  · exact (h.trans (luRxRead_engine _)).trans (arrayStore_engine _ _ _ _)

theorem dataByte_engine (d : Dir) (sel : XSel) (l i : Nat) (b : Word) (s : State) :
    EngineFrame s (dataByte d sel l i b s).2 := by
  refine andThen_engine ?_ (fun t => setXidx_engine (i + 1) t)
  cases d with
  | write => exact dataTx_engine _ _ _
  | read => exact dataRx_engine _ _ _ _ _

theorem dataLoop_engine (d : Dir) (sel : XSel) (l : Nat) (b : Word) (n i : Nat) (s : State) :
    EngineFrame s (dataLoop d sel l b n i s).2 := by
  induction n generalizing i s with
  | zero => exact .refl s
  | succ n ih => exact andThen_engine (dataByte_engine d sel l i b s) (fun t => ih (i + 1) t)

theorem stopPhase_engine (s : State) : EngineFrame s (stopPhase s) :=
  (((estate_engine .stop s).trans (emit_engine .stop _)).trans (emit_engine (.dly Config.tStopSettle) _)).trans
    (estate_engine .done _)

/-- What a whole transaction leaves alone, once its latches are loaded (R150). -/
theorem xactPhases_engine (d : Dir) (a : BusAddr) (l : Byte) (b : Word) (sel : XSel) (s : State) :
    EngineFrame s (xactPhases d a l b sel s).2 := by
  refine andThen_engine (waitBusFree_engine b s) fun s1 => ?_
  refine andThen_engine (startPhase_engine d b s1) fun s2 => ?_
  refine andThen_engine (addressPhase_engine a d b s2) fun s3 => ?_
  refine andThen_engine ((estate_engine .data s3).trans (dataLoop_engine d sel _ b _ _ _)) fun s4 => ?_
  exact stopPhase_engine s4

/-! ### The latches after a transaction -/

theorem xact_xdir (d : Dir) (a : BusAddr) (l : Byte) (b : Word) (sel : XSel) (s : State) :
    (xact d a l b sel s).2.xdir = d :=
  (xactPhases_engine d a l b sel (latchXact d a l b sel s)).xdir

theorem xact_xaddr (d : Dir) (a : BusAddr) (l : Byte) (b : Word) (sel : XSel) (s : State) :
    (xact d a l b sel s).2.xaddr = a :=
  (xactPhases_engine d a l b sel (latchXact d a l b sel s)).xaddr

theorem xact_xlen (d : Dir) (a : BusAddr) (l : Byte) (b : Word) (sel : XSel) (s : State) :
    (xact d a l b sel s).2.xlen = l :=
  (xactPhases_engine d a l b sel (latchXact d a l b sel s)).xlen

theorem xact_xb (d : Dir) (a : BusAddr) (l : Byte) (b : Word) (sel : XSel) (s : State) :
    (xact d a l b sel s).2.xb = b :=
  (xactPhases_engine d a l b sel (latchXact d a l b sel s)).xb

theorem xact_xsel (d : Dir) (a : BusAddr) (l : Byte) (b : Word) (sel : XSel) (s : State) :
    (xact d a l b sel s).2.xsel = sel :=
  (xactPhases_engine d a l b sel (latchXact d a l b sel s)).xsel

theorem xact_xcode (d : Dir) (a : BusAddr) (l : Byte) (b : Word) (sel : XSel) (s : State) :
    (xact d a l b sel s).2.xcode = (xact d a l b sel s).1 := rfl

/-! ### The codes the phases can answer (R210 to R212) -/

theorem waitBusFree_code (b : Word) (s : State) :
    (waitBusFree b s).1 = .ok ∨ ((waitBusFree b s).1 = .busStuck ∧ (waitBusFree b s).2.estate = .failed) := by
  unfold waitBusFree
  dsimp only
  split
  · split
    · exact .inr ⟨rfl, rfl⟩
    · exact .inl rfl
  · exact .inl rfl

theorem startPhase_code (d : Dir) (b : Word) (s : State) :
    (startPhase d b s).1 = .ok ∨ ((startPhase d b s).1 = .startTimeout ∧ (startPhase d b s).2.estate = .failed) := by
  unfold startPhase
  dsimp only
  split
  · exact .inr ⟨rfl, rfl⟩
  · exact .inl rfl

theorem addressPhase_code (a : BusAddr) (d : Dir) (b : Word) (s : State) :
    (addressPhase a d b s).1 = .ok ∨
      (((addressPhase a d b s).1 = .addressNack ∨ (addressPhase a d b s).1 = .addressTimeout) ∧
        (addressPhase a d b s).2.estate = .failed) := by
  unfold addressPhase
  dsimp only
  split
  · exact .inl rfl
  · exact .inr ⟨.inl rfl, rfl⟩
  · exact .inr ⟨.inr rfl, rfl⟩

theorem dataTx_code (v : Byte) (b : Word) (s : State) :
    (dataTx v b s).1 = .ok ∨
      (((dataTx v b s).1 = .dataNack ∨ (dataTx v b s).1 = .dataTimeout) ∧ (dataTx v b s).2.estate = .failed) := by
  unfold dataTx
  dsimp only
  split
  · exact .inl rfl
  · exact .inr ⟨.inl rfl, rfl⟩
  · exact .inr ⟨.inr rfl, rfl⟩

theorem dataRx_code (last : Bool) (sel : XSel) (i : Nat) (b : Word) (s : State) :
    (dataRx last sel i b s).1 = .ok ∨
      ((dataRx last sel i b s).1 = .dataTimeout ∧ (dataRx last sel i b s).2.estate = .failed) := by
  unfold dataRx
  dsimp only
  split
  · exact .inr ⟨rfl, rfl⟩
  · exact .inl rfl

end Sys2Proof.Machine
end

