-- ==== Sys2Proof/Laws/Command.lean ====
section
/-! SUPPORT. The four cases of the meaning every command shares, the shape of a step, and what the other shared operations
answer: one pulse, a noted probe, the decode of a payload. -/

namespace Sys2Proof.Machine

/-! ### `command` (R197, R198) -/

theorem command_busy (i : Instr) (run : State → Result × State) (atAccept : State → State) (s : State)
    (h : s.busy = true) : command i run atAccept s = .next (overrun s) := by
  simp [command, h]

theorem command_illegal (i : Instr) (run : State → Result × State) (atAccept : State → State) (s : State)
    (h : s.busy = false) (ho : operandsLegal i s = false) :
    command i run atAccept s = .next (refuseWord (takeWord (encode i) s)) := by
  simp [command, h, ho]

theorem command_blocks (i : Instr) (run : State → Result × State) (atAccept : State → State) (s : State)
    (h : s.busy = false) (ho : operandsLegal i s = true) (hc : s.caller = .blocks) :
    command i run atAccept s =
      .next (complete (run (acceptCommand i (takeWord (encode i) s))).1
        (run (acceptCommand i (takeWord (encode i) s))).2) := by
  simp [command, h, ho, hc]

theorem command_polls (i : Instr) (run : State → Result × State) (atAccept : State → State) (s : State)
    (h : s.busy = false) (ho : operandsLegal i s = true) (hc : s.caller = .polls) :
    command i run atAccept s = .next (goTo (.accepted i) (atAccept (acceptCommand i (takeWord (encode i) s)))) := by
  simp [command, h, ho, hc]

/-- Everything `command` can do. -/
theorem command_cases {i : Instr} {run : State → Result × State} {atAccept : State → State} {s t : State}
    (h : command i run atAccept s = .next t) :
    (s.busy = true ∧ t = overrun s) ∨
    (s.busy = false ∧ operandsLegal i s = false ∧ t = refuseWord (takeWord (encode i) s)) ∨
    (s.busy = false ∧ operandsLegal i s = true ∧ s.caller = .blocks ∧
      t = complete (run (acceptCommand i (takeWord (encode i) s))).1
        (run (acceptCommand i (takeWord (encode i) s))).2) ∨
    (s.busy = false ∧ operandsLegal i s = true ∧ s.caller = .polls ∧
      t = goTo (.accepted i) (atAccept (acceptCommand i (takeWord (encode i) s)))) := by
  cases hb : s.busy with
  | true =>
    rw [command_busy i run atAccept s hb] at h
    injection h with h
    exact .inl ⟨rfl, h.symm⟩
  | false =>
    cases ho : operandsLegal i s with
    | false =>
      rw [command_illegal i run atAccept s hb ho] at h
      injection h with h
      exact .inr (.inl ⟨rfl, rfl, h.symm⟩)
    | true =>
      cases hc : s.caller with
      | blocks =>
        rw [command_blocks i run atAccept s hb ho hc] at h
        injection h with h
        exact .inr (.inr (.inl ⟨rfl, rfl, rfl, h.symm⟩))
      | polls =>
        rw [command_polls i run atAccept s hb ho hc] at h
        injection h with h
        exact .inr (.inr (.inr ⟨rfl, rfl, rfl, h.symm⟩))

/-! ### The step -/

theorem step_nil (s : State) (h : s.inbox = []) : step s = coreTurn s := by simp [step, h]

theorem step_cons (s : State) (x : Input) (rest : List Input) (h : s.inbox = x :: rest) :
    step s = input x rest s := by simp [step, h]

/-- What a host write of a register other than CMD can do. -/
theorem hostWrite_frame (off : Offset) (v : Word) (s : State) :
    hostWrite off v s =
        { s with
          tbudget := (hostWrite off v s).tbudget, tbShort := (hostWrite off v s).tbShort,
          tbLong := (hostWrite off v s).tbLong } ∨
      ∃ i, hostWrite off v s = bufStore i (v.setWidth 8) s := by
  unfold hostWrite
  repeat' split
  all_goals first
    | exact .inl rfl
    | exact .inr ⟨_, rfl⟩

/-! ### The other shared operations -/

/-- One pulse (R131): four events; SCL_O is high after it. -/
theorem clockPulse_eq (k : Nat) (s : State) :
    clockPulse k s =
      { s with
        pulse := BitVec.ofNat 4 k, sclO := true,
        trace := s.trace ++ [.scl false, .dly Config.tEdge, .scl true, .dly Config.tEdge] } := by
  simp [clockPulse, dly, pinScl, emit]

/-- A probe that did not succeed leaves the scan file alone. -/
theorem notePresent_failed (c : Code) (s : State) (h : c ≠ .ok) : notePresent c s = s := by
  cases c <;> first | exact absurd rfl h | rfl

/-- Every outcome of the decode of a payload (R171, R175). -/
theorem decodePayload_cases (s : State) :
    (payloadStatus s.pay = .notReady ∧ (decodePayload s).1 = ⟨.notReady, .decode, 0#8⟩ ∧
      (decodePayload s).2 = { s with payValid := true, dstate := .failed }) ∨
    (payloadStatus s.pay ≠ .notReady ∧ (decodePayload s).1 = okResult ∧
      (decodePayload s).2 =
        { s with
          payValid := true, statusCode := payloadStatus s.pay, humRaw := payloadHumRaw s.pay,
          tempRaw := payloadTempRaw s.pay, humPct := numHum (payloadHumRaw s.pay),
          tempC := clampTemp (numTemp (payloadTempRaw s.pay)), rdValid := true, dstate := .decoded }) := by
  unfold decodePayload
  split
  · exact .inl ⟨‹_›, rfl, rfl⟩
  · exact .inr ⟨fun h => by simp_all, rfl, rfl⟩

end Sys2Proof.Machine
end

