-- ==== Sys2Proof/Laws/Encoding.lean ====
section
/-! SUPPORT. The fields of an encoded word. -/

namespace Sys2Proof

@[simp] theorem addrField_write (a : BusAddr) (l : Byte) : addrField (encode (.write a l)) = a := by
  ext j hj
  simp [encode, addrField]
  interval_cases j <;> simp

@[simp] theorem addrField_read (a : BusAddr) (l : Byte) : addrField (encode (.read a l)) = a := by
  ext j hj
  simp [encode, addrField]
  interval_cases j <;> simp

@[simp] theorem lenField_write (a : BusAddr) (l : Byte) : lenField (encode (.write a l)) = l := by
  ext j hj
  simp [encode, lenField]
  interval_cases j <;> simp

@[simp] theorem lenField_read (a : BusAddr) (l : Byte) : lenField (encode (.read a l)) = l := by
  ext j hj
  simp [encode, lenField]
  interval_cases j <;> simp

@[simp] theorem opField_write (a : BusAddr) (l : Byte) : opField (encode (.write a l)) = 1#4 := by
  ext j hj
  simp [encode, opField]
  interval_cases j <;> simp

@[simp] theorem opField_read (a : BusAddr) (l : Byte) : opField (encode (.read a l)) = 2#4 := by
  ext j hj
  simp [encode, opField]
  interval_cases j <;> simp

@[simp] theorem opField_forceClear : opField (encode .forceClear) = 3#4 := by decide
@[simp] theorem opField_measure : opField (encode .measure) = 4#4 := by decide
@[simp] theorem opField_scan : opField (encode .scan) = 5#4 := by decide
@[simp] theorem opField_reinit : opField (encode .reinit) = 6#4 := by decide

theorem formatXReserved_write (a : BusAddr) (l : Byte) : formatXReserved (encode (.write a l)) = 0#32 := by
  ext j hj
  simp [encode, formatXReserved]
  interval_cases j <;> simp

theorem formatXReserved_read (a : BusAddr) (l : Byte) : formatXReserved (encode (.read a l)) = 0#32 := by
  ext j hj
  simp [encode, formatXReserved]
  interval_cases j <;> simp

/-- What a successful decode says of the word: the opcode, the must-be-zero bits and the fields (R103). -/
theorem decode_ok (w : Word) (i : Instr) (h : decode w = .ok i) :
    match i with
    | .write a l => opField w = 1#4 ∧ formatXReserved w = 0#32 ∧ addrField w = a ∧ lenField w = l
    | .read a l => opField w = 2#4 ∧ formatXReserved w = 0#32 ∧ addrField w = a ∧ lenField w = l
    | .forceClear => opField w = 3#4 ∧ formatZReserved w = 0#32
    | .measure => opField w = 4#4 ∧ formatZReserved w = 0#32
    | .scan => opField w = 5#4 ∧ formatZReserved w = 0#32
    | .reinit => opField w = 6#4 ∧ formatZReserved w = 0#32 := by
  unfold decode decodeX decodeZ at h
  repeat' split at h
  all_goals first
    | (injection h with h; subst h; simp_all)
    | cases h

end Sys2Proof
end

