-- ==== Sys2Proof/Laws/Events.lean ====
section
/-! SUPPORT. Lists of events, and ENV's answers to come, under the operations that extend or consume them. -/

namespace Sys2Proof.Safety

open Sys2Proof.Machine

theorem txBytes_append (xs ys : List Event) : txBytes (xs ++ ys) = txBytes xs ++ txBytes ys := by
  induction xs with
  | nil => rfl
  | cons e xs ih => cases e <;> simp [txBytes, ih]

/-- Events that transmit nothing before their first start condition, after any others: the groups follow one another. -/
theorem txByStart_append (xs ys : List Event) (h : (txByStart ys).1 = []) :
    txByStart (xs ++ ys) = ((txByStart xs).1, (txByStart xs).2 ++ (txByStart ys).2) := by
  induction xs with
  | nil => simp [txByStart, ← h]
  | cons e xs ih => cases e <;> simp [txByStart, ih]

/-- The groups hold every byte transmitted, in order. -/
theorem txBytes_eq_txByStart (es : List Event) : txBytes es = (txByStart es).1 ++ (txByStart es).2.flatten := by
  induction es with
  | nil => rfl
  | cons e es ih => cases e <;> simp [txBytes, txByStart, ih]

/-- There is one group for each start condition. -/
theorem txByStart_length (es : List Event) : (txByStart es).2.length = occurs .start es := by
  induction es with
  | nil => rfl
  | cons e es ih => cases e <;> simp_all [txByStart, occurs]

theorem rxBytes_append (xs ys : List Event) : rxBytes (xs ++ ys) = rxBytes xs ++ rxBytes ys := by
  induction xs with
  | nil => rfl
  | cons e xs ih => cases e <;> simp [rxBytes, ih]

theorem occurs_append (e : Event) (xs ys : List Event) : occurs e (xs ++ ys) = occurs e xs + occurs e ys := by
  simp [occurs]

theorem occurs_cons (e x : Event) (xs : List Event) :
    occurs e (x :: xs) = occurs e xs + if x = e then 1 else 0 := by
  simp [occurs, List.countP_cons]

theorem traceRun_append (xs ys : List Event) (st : TraceState) :
    traceRun st (xs ++ ys) = (traceRun st xs).bind (fun u => traceRun u ys) := by
  induction xs generalizing st with
  | nil => rfl
  | cons e xs ih =>
    simp only [List.cons_append, traceRun]
    split
    · exact ih _
    · rfl

/-- One more event: the automaton's next state, when the event is allowed. -/
theorem traceRun_snoc (xs : List Event) (e : Event) (st u : TraceState) (h : traceRun st xs = some u)
    (ha : allowed u e = true) : traceRun st (xs ++ [e]) = some (traceNext u e) := by
  simp [traceRun_append, h, traceRun, ha]

@[simp] theorem flagsAhead_zero (s : State) : flagsAhead s 0 = nextFlags s := by
  simp [flagsAhead, nextFlags, List.head?_eq_getElem?]

@[simp] theorem flagsAhead_luSample (s : State) (k : Nat) : flagsAhead (luSample s) k = flagsAhead s (k + 1) := by
  simp [flagsAhead, Nat.add_comm, Nat.add_left_comm]

@[simp] theorem flagsAhead_emit (e : Event) (s : State) (k : Nat) : flagsAhead (emit e s) k = flagsAhead s k := rfl

@[simp] theorem flagsAhead_countDown (s : State) (k : Nat) : flagsAhead (countDown s) k = flagsAhead s k := rfl

@[simp] theorem rxAhead_zero (s : State) : rxAhead s 0 = nextRx s := by
  simp [rxAhead, nextRx, List.head?_eq_getElem?]

@[simp] theorem rxAhead_luRxRead (s : State) (k : Nat) : rxAhead (luRxRead s) k = rxAhead s (k + 1) := by
  simp [rxAhead, Nat.add_comm, Nat.add_left_comm]

@[simp] theorem rxAhead_emit (e : Event) (s : State) (k : Nat) : rxAhead (emit e s) k = rxAhead s k := rfl

@[simp] theorem rxAhead_luSample (s : State) (k : Nat) : rxAhead (luSample s) k = rxAhead s k := rfl

end Sys2Proof.Safety
end

