-- ==== Sys2Proof/Laws/Micro.lean ====
section
/-! SUPPORT. What each part of a step of the CORE can do, said once: the poll, the data loop, what follows a transaction,
recovery. A proof about `coreStep` cites these instead of unfolding the parts. -/

namespace Sys2Proof.Machine

open Sys2Proof.Safety

/-! ### The poll -/

theorem pollSample_eq (c : PollCond) (watch : Bool) (u : Option PollResult → Upc) (s : State) :
    pollSample c watch u s = { luSample s with upc := u (sampleOutcome c watch s) } := rfl

theorem beginPoll_eq (c : PollCond) (watch : Bool) (u : Option PollResult → Upc) (s : State) :
    beginPoll c watch u s = { luSample s with cnt := s.xb, upc := u (sampleOutcome c watch s) } := rfl

/-- Everything that can follow a sample (R141). -/
theorem afterSample_cases (c : PollCond) (watch : Bool) (u : Option PollResult → Upc) (o : Option PollResult)
    (ready nack timeout : State → State) (s : State) :
    (o = some .ready ∧ afterSample c watch u o ready nack timeout s = ready s) ∨
    (o = some .nack ∧ afterSample c watch u o ready nack timeout s = nack s) ∨
    (o = some .timeout ∧ afterSample c watch u o ready nack timeout s = timeout s) ∨
    (o = none ∧ s.cnt - 1#32 = 0#32 ∧ afterSample c watch u o ready nack timeout s = timeout (countDown s)) ∨
    (o = none ∧ s.cnt - 1#32 ≠ 0#32 ∧ afterSample c watch u o ready nack timeout s = pollSample c watch u (countDown s)) := by
  rcases o with _ | r
  · by_cases h : s.cnt - 1#32 = 0#32
    · exact .inr (.inr (.inr (.inl ⟨rfl, h, by simp [afterSample, h]⟩)))
    · exact .inr (.inr (.inr (.inr ⟨rfl, h, by simp [afterSample, h]⟩)))
  · cases r
    · exact .inl ⟨rfl, rfl⟩
    · exact .inr (.inl ⟨rfl, rfl⟩)
    · exact .inr (.inr (.inl ⟨rfl, rfl⟩))

/-- With P_RACE = NackFirst a sample is a NACK exactly when nack is watched and set (R141). -/
theorem sampleOutcome_nack (c : PollCond) (watch : Bool) (s : State) :
    sampleOutcome c watch s = some .nack ↔ watch = true ∧ (nextFlags s).nack = true := by
  cases hw : watch <;> cases hn : (nextFlags s).nack <;> cases hc : condHolds c (nextFlags s) <;>
    simp [sampleOutcome, raceOutcome, Config.pRace, hn, hc]

/-- And ready exactly when the condition holds and no watched nack is set. -/
theorem sampleOutcome_ready (c : PollCond) (watch : Bool) (s : State) :
    sampleOutcome c watch s = some .ready ↔
      condHolds c (nextFlags s) = true ∧ (watch && (nextFlags s).nack) = false := by
  cases hw : watch <;> cases hn : (nextFlags s).nack <;> cases hc : condHolds c (nextFlags s) <;>
    simp [sampleOutcome, raceOutcome, Config.pRace, hn, hc]

/-- A sample never decides a timeout. -/
theorem sampleOutcome_ne_timeout (c : PollCond) (watch : Bool) (s : State) :
    sampleOutcome c watch s ≠ some .timeout := by
  cases hw : watch <;> cases hn : (nextFlags s).nack <;> cases hc : condHolds c (nextFlags s) <;>
    simp [sampleOutcome, raceOutcome, Config.pRace, hn, hc]

/-! ### The parts of a transaction -/

theorem startXact_eq (d : Dir) (a : BusAddr) (l : Byte) (b : Word) (sel : XSel) (s : State) :
    startXact d a l b sel s =
      { luSample s with
        xdir := d, xaddr := a, xlen := l, xb := b, xsel := sel, xidx := 0#8, cnt := b, estate := .waitFree,
        upc := .wfSmp (sampleOutcome .busFree false s) } := rfl

/-- Every way a start phase begins (R143). -/
theorem toStart_cases (s : State) :
    (s.xdir = .write ∧ toStart s = { emit .start s with estate := .start, upc := .stStart }) ∨
    (s.xdir = .read ∧
      toStart s = { emit (.ack true) s with estate := .start, ackpol := true, upc := .stAck }) := by
  cases h : s.xdir
  · exact .inl ⟨rfl, by simp [toStart, h, goTo, emit]⟩
  · exact .inr ⟨rfl, by simp [toStart, h, goTo, luSetAck, emit]⟩

/-- Every way the data loop goes on (R150): a byte to transmit, the last byte to receive, another one, or the end. -/
theorem toData_cases (s : State) :
    (s.xidx.toNat < s.xlen.toNat ∧ s.xdir = .write ∧
      toData s = { emit (.tx (arrayByte s.xsel s s.xidx.toNat)) s with upc := .txByte }) ∨
    (s.xidx.toNat + 1 = s.xlen.toNat ∧ s.xdir = .read ∧
      toData s = { emit (.ack false) s with ackpol := false, upc := .rxAck }) ∨
    (s.xidx.toNat + 1 < s.xlen.toNat ∧ s.xdir = .read ∧ toData s = beginPoll .rxReady false .rxSmp s) ∨
    (s.xlen.toNat ≤ s.xidx.toNat ∧ toData s = { emit .stop s with estate := .stop, upc := .spStop }) := by
  by_cases hl : s.xidx.toNat < s.xlen.toNat
  · cases hd : s.xdir
    · exact .inl ⟨hl, rfl, by simp [toData, hl, hd, goTo]⟩
    · by_cases he : s.xidx.toNat + 1 = s.xlen.toNat
      · exact .inr (.inl ⟨he, rfl, by simp [toData, hl, hd, he, goTo, luSetAck, emit]⟩)
      · exact .inr (.inr (.inl ⟨by omega, rfl, by simp [toData, hl, hd, he]⟩))
  · exact .inr (.inr (.inr ⟨by omega, by simp [toData, hl, goTo, emit]⟩))

/-! ### What follows a transaction, and recovery -/

/-- Everything that can follow a transaction (R216), by the command in progress. -/
theorem xactDone_cases (c : Code) (s : State) :
    (s.opcur = 4#4 ∧ s.dstate = .triggered ∧ xactDone c s = afterTrigger c { s with xcode := c }) ∨
    (s.opcur = 4#4 ∧ s.dstate ≠ .triggered ∧ xactDone c s = afterRead c { s with xcode := c }) ∨
    (s.opcur = 5#4 ∧ xactDone c s = afterProbe (notePresent c { s with xcode := c })) ∨
    (s.opcur ≠ 4#4 ∧ s.opcur ≠ 5#4 ∧
      xactDone c s = complete ⟨c, .none, s.xidx⟩ { s with xcode := c }) := by
  by_cases h4 : s.opcur = 4#4
  · by_cases hd : s.dstate = .triggered
    · exact .inl ⟨h4, hd, by simp [xactDone, h4, hd]⟩
    · exact .inr (.inl ⟨h4, hd, by simp [xactDone, h4, hd]⟩)
  · by_cases h5 : s.opcur = 5#4
    · exact .inr (.inr (.inl ⟨h5, by simp [xactDone, h5]⟩))
    · exact .inr (.inr (.inr ⟨h4, h5, by simp [xactDone, h4, h5, finish]⟩))

/-- After a pulse (R131): the next one, or the settle delay. -/
theorem pulseDone_cases (s : State) :
    (s.pulse.toNat < Config.nPulses ∧ pulseDone s = toPulse (s.pulse.toNat + 1) s) ∨
    (Config.nPulses ≤ s.pulse.toNat ∧
      pulseDone s =
        { emit (.dly Config.tClearSettle) s with pulse := 0#4, rstate := .settle, upc := .fcSettle }) := by
  by_cases h : s.pulse.toNat < Config.nPulses
  · exact .inl ⟨h, by simp [pulseDone, h]⟩
  · exact .inr ⟨by omega, by simp [pulseDone, h, goTo, emit]⟩

end Sys2Proof.Machine
end

