-- ==== Sys2Proof/Laws/PerInstr.lean ====
section
/-! SUPPORT. Statements made for every command, one lemma per constructor: the fields of its word. -/

namespace Sys2Proof.Laws

/-- The opcode of a command (R100). -/
def opcodeOf : Instr → BitVec 4
  | .write _ _ => 1#4
  | .read _ _ => 2#4
  | .forceClear => 3#4
  | .measure => 4#4
  | .scan => 5#4
  | .reinit => 6#4

/-- The must-be-zero bits of a command's format (R101, R102). -/
def reservedBits : Instr → Word
  | .write _ _ => 0x0F8000FF#32
  | .read _ _ => 0x0F8000FF#32
  | .forceClear => 0x0FFFFFFF#32
  | .measure => 0x0FFFFFFF#32
  | .scan => 0x0FFFFFFF#32
  | .reinit => 0x0FFFFFFF#32

namespace WordFields

/-- The word of a command carries its opcode and has no must-be-zero bit set. -/
def Statement (i : Instr) : Prop := opField (encode i) = opcodeOf i ∧ encode i &&& reservedBits i = 0#32

theorem write (a : BusAddr) (l : Byte) : Statement (.write a l) :=
  ⟨opField_write a l, formatXReserved_write a l⟩

theorem read (a : BusAddr) (l : Byte) : Statement (.read a l) :=
  ⟨opField_read a l, formatXReserved_read a l⟩

theorem forceClear : Statement .forceClear := by unfold Statement; decide
theorem measure : Statement .measure := by unfold Statement; decide
theorem scan : Statement .scan := by unfold Statement; decide
theorem reinit : Statement .reinit := by unfold Statement; decide

end WordFields

end Sys2Proof.Laws
end

