-- ==== Sys2Proof/Tests/Slice0.lean ====
section
/-! SUPPORT. The model's own tests, each on one step of a small state with the result the spec's 95_test_vectors.md gives
(the vector's name stands with each), and a witness that meets the hypotheses of each statement that has any. -/

open Sys2Proof Sys2Proof.Machine Sys2Proof.Safety

namespace Sys2Proof.Tests

/-! ### Helpers -/

/-- A sample, in the order busy, txrdy, nack, rxrdy. -/
def smp (b t n r : Nat) : Flags := ⟨decide (b = 1), decide (t = 1), decide (n = 1), decide (r = 1)⟩

/-- An idle block with budgets `n` for all commands and the given answers of ENV. -/
def idleWith (n : Word) (fs : List Flags) (rx : List Byte) : State :=
  { State.reset with tbudget := n, tbShort := n, tbLong := n, flagsIn := fs, rxIn := rx, desync := false }

/-- The state a meaning leaves; the state after reset for a stop. -/
def after (o : Host.Outcome State Fault Refusal) : State :=
  match o with
  | .next t => t
  | .fault _ => State.reset
  | .refused _ => State.reset

/-- A meaning left a next state. -/
def ran (o : Host.Outcome State Fault Refusal) : Bool :=
  match o with
  | .next _ => true
  | .fault _ => false
  | .refused _ => false

/-- The next state is the one the meaning left. -/
theorem next_after (o : Host.Outcome State Fault Refusal) (h : ran o = true) : o = .next (after o) := by
  cases o with
  | next t => rfl
  | fault r => cases h
  | refused r => cases h

/-! ### WellFormed: an ill-formed term for each check (V-E12 to V-E15) -/

theorem test_write_address_zero_ill_formed : (Instr.write 0x00#7 1#8).wellFormed = false := by decide
theorem test_write_address_7F_ill_formed : (Instr.write 0x7F#7 1#8).wellFormed = false := by decide
theorem test_write_length_zero_ill_formed : (Instr.write 0x44#7 0#8).wellFormed = false := by decide
theorem test_write_length_33_ill_formed : (Instr.write 0x44#7 33#8).wellFormed = false := by decide
theorem test_read_address_zero_ill_formed : (Instr.read 0x00#7 4#8).wellFormed = false := by decide
theorem test_read_address_7F_ill_formed : (Instr.read 0x7F#7 4#8).wellFormed = false := by decide
theorem test_read_length_zero_ill_formed : (Instr.read 0x44#7 0#8).wellFormed = false := by decide
theorem test_read_length_33_ill_formed : (Instr.read 0x44#7 33#8).wellFormed = false := by decide

/-! ### Decoding: words written out from the formats of R101 and R102 -/

/-- OP = 1, must-be-zero 27:23, ADDR = 0x7E, LEN = 32, must-be-zero 7:0. -/
theorem test_decode_write : decode 0b0001_00000_1111110_00100000_00000000#32 = .ok (.write 0x7E#7 32#8) := by decide
/-- OP = 2, ADDR = 0x01, LEN = 4. -/
theorem test_decode_read : decode 0b0010_00000_0000001_00000100_00000000#32 = .ok (.read 0x01#7 4#8) := by decide
/-- OP = 3, the rest zero. -/
theorem test_decode_force_clear : decode 0b0011_0000000000000000000000000000#32 = .ok .forceClear := by decide
/-- OP = 4, the rest zero. -/
theorem test_decode_measure : decode 0b0100_0000000000000000000000000000#32 = .ok .measure := by decide
/-- OP = 5, the rest zero. -/
theorem test_decode_scan : decode 0b0101_0000000000000000000000000000#32 = .ok .scan := by decide
/-- OP = 6, the rest zero. -/
theorem test_decode_reinit : decode 0b0110_0000000000000000000000000000#32 = .ok .reinit := by decide
/-- V-E9 to V-E11: the reserved opcodes. -/
theorem test_decode_reserved_opcodes :
    decode 0x00000000#32 = .error .reservedOpcode ∧ decode 0x70000000#32 = .error .reservedOpcode ∧
      decode 0xF0000000#32 = .error .reservedOpcode := by decide
/-- V-E16 to V-E19: the must-be-zero bits. -/
theorem test_decode_must_be_zero :
    decode 0x10440101#32 = .error .mustBeZero ∧ decode 0x18440100#32 = .error .mustBeZero ∧
      decode 0x10C40100#32 = .error .mustBeZero ∧ decode 0x30000001#32 = .error .mustBeZero := by decide
theorem test_decode_table_word : decodeTableWord 32 0x20440400 = some (.read 0x44#7 4#8) := by decide

/-! ### WRITE -/

/-- V-T11: DataNack on the second of two bytes. -/
def dataNackState : State :=
  { idleWith 5#32 [smp 0 0 0 0, smp 0 1 0 0, smp 0 1 0 0, smp 0 1 0 0, smp 0 0 1 0] [] with
    buf := [(0, 0x11#8), (1, 0x22#8)] }

theorem test_write_data_nack :
    (after (exec (.write 0x44#7 2#8) dataNackState)).trace =
      [.cmd 0x10440200#32, .smp (smp 0 0 0 0), .start, .smp (smp 0 1 0 0), .tx 0x88#8, .smp (smp 0 1 0 0), .tx 0x11#8,
        .smp (smp 0 1 0 0), .tx 0x22#8, .smp (smp 0 0 1 0), .nackClr, .stop, .dly 2000, .ret ⟨.dataNack, .none, 1#8⟩] ∧
      resultWord (after (exec (.write 0x44#7 2#8) dataNackState)).result = 0x00000106#32 := by decide +kernel

/-- V-T4: BusStuck with a budget of 3. -/
theorem test_write_bus_stuck :
    (after (exec (.write 0x44#7 1#8) (idleWith 3#32 (List.replicate 4 (smp 1 0 0 0)) []))).trace =
      [.cmd 0x10440100#32, .smp (smp 1 0 0 0), .smp (smp 1 0 0 0), .smp (smp 1 0 0 0), .stop, .dly 2000,
        .smp (smp 1 0 0 0), .ret ⟨.busStuck, .none, 0#8⟩] := by decide +kernel

/-! ### READ -/

/-- V-T13: DataTimeout at the third byte of four. -/
def readTimeoutState : State :=
  idleWith 2#32
    [smp 0 0 0 0, smp 0 1 0 0, smp 0 1 0 0, smp 0 0 0 1, smp 0 0 0 1, smp 0 0 0 0, smp 0 0 0 0] [0x20#8, 0x00#8]

theorem test_read_data_timeout :
    (after (exec (.read 0x44#7 4#8) readTimeoutState)).trace =
      [.cmd 0x20440400#32, .smp (smp 0 0 0 0), .ack true, .start, .smp (smp 0 1 0 0), .tx 0x89#8, .smp (smp 0 1 0 0),
        .smp (smp 0 0 0 1), .rx 0x20#8, .smp (smp 0 0 0 1), .rx 0x00#8, .smp (smp 0 0 0 0), .smp (smp 0 0 0 0),
        .ret ⟨.dataTimeout, .none, 2#8⟩] ∧
      (after (exec (.read 0x44#7 4#8) readTimeoutState)).buf = [(0, 0x20#8), (1, 0x00#8)] := by decide +kernel

/-- V-T17: nack is not watched in the data phase of a read; the policy switch comes before the last byte's samples. -/
theorem test_read_nack_not_watched :
    (after (exec (.read 0x44#7 1#8)
      (idleWith 3#32 [smp 0 0 0 0, smp 0 1 0 0, smp 0 1 0 0, smp 0 0 1 0, smp 0 0 1 1] [0x5A#8]))).trace =
      [.cmd 0x20440100#32, .smp (smp 0 0 0 0), .ack true, .start, .smp (smp 0 1 0 0), .tx 0x89#8, .smp (smp 0 1 0 0),
        .ack false, .smp (smp 0 0 1 0), .smp (smp 0 0 1 1), .rx 0x5A#8, .stop, .dly 2000,
        .ret ⟨.ok, .none, 1#8⟩] := by decide +kernel

/-! ### FORCE_CLEAR and REINIT -/

/-- V-B1: STATUS after FORCE_CLEAR from the state after the boot sequence. -/
theorem test_force_clear_status : statusWord (after (exec .forceClear (idleWith 0#32 [] []))) = 0x0000032E#32 := by
  decide +kernel

/-- V-B2: the trace of REINIT and STATUS after FORCE_CLEAR and REINIT. -/
theorem test_reinit_after_force_clear :
    statusWord (after (exec .reinit (after (exec .forceClear (idleWith 0#32 [] []))))) = 0x00000622#32 ∧
      (after (exec .reinit (idleWith 0#32 [] []))).trace =
        [.cmd 0x60000000#32, .pinRel, .reinit, .ret ⟨.ok, .none, 0#8⟩] := by decide +kernel

/-! ### MEASURE -/

/-- V-M1: what the HOST reads after the source's payload. -/
def measured : State :=
  after (exec .measure (idleWith 3#32 (List.replicate 11 idealFlags) [0x20#8, 0x00#8, 0x00#8, 0x80#8]))

theorem test_measure_reading :
    [offStatus, offResult, offRdStatus, offHumRaw, offTempRaw, offHumPct, offTempC, offPayload].map
        (fun off => registerValue 0xFFFFFFFF#32 off measured) =
      [0x00046402#32, 0#32, 1#32, 0x2000#32, 0x2000#32, 0x42480320#32, 0x422A0528#32, 0x80000020#32] := by
  decide +kernel

/-- V-M6: a read that fails is followed by recovery and 50 ms; STATUS and RESULT. -/
def measureFailed : State :=
  after (exec .measure (idleWith 3#32 (List.replicate 7 idealFlags ++ List.replicate 3 (smp 0 0 0 0)) []))

theorem test_measure_read_failure :
    statusWord measureFailed = 0x0005742E#32 ∧ resultWord measureFailed.result = 0x00000025#32 ∧
      measureFailed.trace.drop (measureFailed.trace.length - 3) =
        [.dly 10000, .dly 50000, .ret ⟨.dataTimeout, .read, 0#8⟩] ∧
      measureFailed.trace.countP (fun e => decide (e = .scl false)) = 9 := by decide +kernel

/-! ### SCAN -/

/-- V-S1: the probes of 0x43, nobody, and 0x44, the responder. -/
def scanned : State :=
  scanLoop 2 0x43
    { idleWith 10#32 [smp 0 0 0 0, smp 0 1 0 0, smp 0 0 1 0, smp 0 0 0 0, smp 0 1 0 0, smp 0 1 0 0, smp 0 1 0 0] [] with
      opShort := 10#32 }

theorem test_scan_two_probes :
    scanned.trace =
      [.smp (smp 0 0 0 0), .start, .smp (smp 0 1 0 0), .tx 0x86#8, .smp (smp 0 0 1 0), .nackClr, .stop, .dly 2000,
        .smp (smp 0 0 0 0), .start, .smp (smp 0 1 0 0), .tx 0x88#8, .smp (smp 0 1 0 0), .tx 0x00#8, .smp (smp 0 1 0 0),
        .stop, .dly 2000] ∧
      scanned.count = 1#7 ∧ presentWord 2 scanned = 0x00000010#32 ∧ presentWord 0 scanned = 0#32 := by decide +kernel

/-- V-E23: SCAN with TB_SHORT = 0 is refused and leaves the scan file alone. -/
theorem test_scan_refused :
    resultWord (after (exec .scan { idleWith 0#32 [] [] with present := 2#128, count := 1#7 })).result = 0x0000000F#32 ∧
      (after (exec .scan { idleWith 0#32 [] [] with present := 2#128, count := 1#7 })).present = 2#128 := by
  decide +kernel

/-! ### Host access -/

/-- V-H8: a WRITE right after reset is refused, budget 0. -/
theorem test_write_after_reset :
    statusWord (after (step (State.reset.withFetchWord 32 0x10440100))) = 0x00000126#32 ∧
      resultWord (after (step (State.reset.withFetchWord 32 0x10440100))).result = 0x0000000F#32 := by decide +kernel

/-- V-H6: BUF keeps bits 7:0. -/
theorem test_buf_31 :
    registerValue 0#32 0x17C#12 (after (hwr 0x17C#12 0x12345678#32 State.reset)) = 0x00000078#32 := by decide +kernel

/-- V-H4: reserved offsets read 0. -/
theorem test_reserved_offsets_read_zero :
    [0x048#12, 0x0FC#12, 0x180#12, 0xFFC#12].map (fun off => registerValue 0xFFFFFFFF#32 off State.reset) =
      [0#32, 0#32, 0#32, 0#32] := by decide +kernel

/-! ### Payloads and numbers (V-D3 to V-D11) -/

theorem test_payload_fields :
    payloadHumRaw ⟨0x01#8, 0x02#8, 0x04#8, 0x00#8⟩ = 258#14 ∧ payloadTempRaw ⟨0x01#8, 0x02#8, 0x04#8, 0x00#8⟩ = 1#14 ∧
      payloadTempRaw ⟨0x00#8, 0x01#8, 0x00#8, 0x01#8⟩ = 64#14 ∧
      payloadTempRaw ⟨0x40#8, 0xFF#8, 0x80#8, 0x00#8⟩ = 32#14 ∧
      payloadStatus ⟨0xBF#8, 0xFF#8, 0xFF#8, 0xFF#8⟩ = .notReady ∧
      payloadStatus ⟨0xC0#8, 0x00#8, 0x03#8, 0x00#8⟩ = .reserved := by decide

theorem test_numbers :
    numHum 255#14 = 0x3FC73B1D#32 ∧ numHum 16382#14 = 0x42C7FCE0#32 ∧ numTemp 1000#14 = 0xC1EF6DBE#32 ∧
      numTemp 8191#14 = 0x4229FAD8#32 := by decide +kernel

/-! ### Witnesses: a state and operands that meet the hypotheses of each statement -/

theorem witness_EncodeThenDecodeIsIdentity :
    (Instr.write 0x01#7 1#8).wellFormed = true ∧ (Instr.write 0x7E#7 32#8).wellFormed = true ∧
      (Instr.read 0x7E#7 32#8).wellFormed = true ∧ Instr.forceClear.wellFormed = true ∧
      Instr.measure.wellFormed = true ∧ Instr.scan.wellFormed = true ∧ Instr.reinit.wellFormed = true := by decide

theorem witness_DecodedWordIsTheEncoding : decode 0x207E2000#32 = .ok (.read 0x7E#7 32#8) := by decide

theorem witness_AddressByte : 1 ≤ (0x01#7 : BusAddr).toNat ∧ (0x7E#7 : BusAddr).toNat ≤ 0x7E := by decide

theorem witness_StepRunsTheDecodedCommand :
    decode 0x60000000#32 = .ok .reinit ∧
      { State.reset with inbox := [.hwr offCmd 0x60000000#32, .wait] }.inbox =
        .hwr offCmd 0x60000000#32 :: [Input.wait] := by decide

/-- Each clause of rule R110 about the word, in its order. -/
theorem witness_IllegalWordsAreRefused_word :
    IllegalWord 0x00000000#32 (idleWith 1#32 [] []) ∧
    IllegalWord 0x70000000#32 (idleWith 1#32 [] []) ∧
    IllegalWord 0xF0000000#32 (idleWith 1#32 [] []) ∧
    IllegalWord 0x10440101#32 (idleWith 1#32 [] []) ∧
    IllegalWord 0x18440100#32 (idleWith 1#32 [] []) ∧
    IllegalWord 0x60000001#32 (idleWith 1#32 [] []) ∧
    IllegalWord 0x10000100#32 (idleWith 1#32 [] []) ∧
    IllegalWord 0x107F0100#32 (idleWith 1#32 [] []) ∧
    IllegalWord 0x10440000#32 (idleWith 1#32 [] []) ∧
    IllegalWord 0x10442100#32 (idleWith 1#32 [] []) := by
  and_intros <;> (unfold IllegalWord; decide)

/-- Each clause about a budget. -/
theorem witness_IllegalWordsAreRefused_budgets :
    IllegalWord 0x10440100#32 (idleWith 0#32 [] []) ∧
    IllegalWord 0x20440400#32 (idleWith 0#32 [] []) ∧
    IllegalWord 0x40000000#32 (idleWith 0#32 [] []) ∧
    IllegalWord 0x50000000#32 (idleWith 0#32 [] []) := by
  and_intros <;> (unfold IllegalWord; decide)

/-- TB_LONG = 0 alone. -/
def noLongBudget : State := { idleWith 1#32 [] [] with tbLong := 0#32 }

theorem witness_IllegalWordsAreRefused_long :
    noLongBudget.busy = false ∧ IllegalWord 0x40000000#32 noLongBudget :=
  ⟨by decide, by unfold IllegalWord; decide⟩

theorem witness_IllegalWordsAreRefused_legal :
    ¬ IllegalWord 0x10010100#32 (idleWith 1#32 [] []) ∧
    ¬ IllegalWord 0x207E2000#32 (idleWith 1#32 [] []) ∧
    ¬ IllegalWord 0x40000000#32 (idleWith 1#32 [] []) ∧
    ¬ IllegalWord 0x50000000#32 (idleWith 1#32 [] []) := by
  and_intros <;> (unfold IllegalWord; decide)

/-- FORCE_CLEAR and REINIT are legal with budgets of 0. -/
theorem witness_IllegalWordsAreRefused_no_budget :
    ¬ IllegalWord 0x30000000#32 State.reset ∧
    ¬ IllegalWord 0x60000000#32 State.reset := by
  and_intros <;> (unfold IllegalWord; decide)

/-- A block in the middle of a FORCE_CLEAR that a polling HOST has issued. -/
def running : State := after (exec .forceClear { idleWith 1#32 [] [] with caller := .polls })

theorem witness_CmdWriteWhileBusyIsDropped :
    running.busy = true ∧ ran (step { running with cmdOvr := true }) = true ∧
      { running with cmdOvr := true }.cmdOvr = true ∧ { running with cmdOvr := true }.inbox = [] ∧
      State.reset.busy = false ∧ ran (cmdWrite 0x60000000#32 State.reset) = true := by decide +kernel

/-- An idle block whose HOST polls. -/
def pollingHost : State := { idleWith 1#32 [] [] with caller := .polls }

theorem witness_AcceptRaisesBusy :
    pollingHost.busy = false ∧ pollingHost.caller = .polls ∧ operandsLegal (.write 0x01#7 1#8) pollingHost = true ∧
      operandsLegal (.read 0x7E#7 32#8) pollingHost = true ∧ operandsLegal .forceClear pollingHost = true ∧
      operandsLegal .measure pollingHost = true ∧ operandsLegal .scan pollingHost = true ∧
      operandsLegal .reinit pollingHost = true := by decide

theorem witness_WrittenRegisterReadsBack :
    State.reset.busy = false ∧ (0 : Nat) < Config.bufSize ∧ (31 : Nat) < Config.bufSize ∧
      aligned (0x17C#12 : Offset) = true ∧ aligned (0x100#12 : Offset) = true ∧ (0x17C#12 : Offset) ≠ 0x100#12 := by
  decide

theorem witness_ReadOnlyWriteIsIgnored :
    (0x004#12 : Offset).toNat % 4 = 0 ∧ (0x004#12 : Offset) ≠ offCmd ∧ ¬ writableOffset 0x004#12 ∧
      (0x0FC#12 : Offset).toNat % 4 = 0 ∧ (0x0FC#12 : Offset) ≠ offCmd ∧ ¬ writableOffset 0x0FC#12 ∧
      (0x180#12 : Offset).toNat % 4 = 0 ∧ (0x180#12 : Offset) ≠ offCmd ∧ ¬ writableOffset 0x180#12 := by
  unfold writableOffset
  decide

theorem witness_BusyBlockIgnoresAccesses :
    running.busy = true ∧ offTbudget.toNat % 4 = 0 ∧ offTbudget ≠ offCmd ∧ isRegister offTbudget = true ∧
      isRegister (offBuf 31) = true ∧ offBuf 31 ≠ offStatus := by decide +kernel

theorem witness_HostReadChangesNothing : offStatus.toNat % 4 = 0 := by decide

theorem witness_HostReadChangesNothing_reserved :
    State.reset.busy = false ∧ isRegister 0x048#12 = false ∧ isRegister 0x180#12 = false ∧
      (0x048#12 : Offset).toNat % 4 = 0 := by decide

theorem witness_MisalignedAccessIsRefused :
    (0x001#12 : Offset).toNat % 4 ≠ 0 ∧ (0x102#12 : Offset).toNat % 4 ≠ 0 ∧ (0xFFF#12 : Offset).toNat % 4 ≠ 0 := by
  decide

theorem witness_ResultRegistersShowTheirFields :
    measured.rdValid = true ∧ measured.payValid = true ∧ (3 : Nat) < 4 ∧ (127 : Nat) < 128 := by decide +kernel

theorem witness_ResetAtAnyTime : { running with inbox := [.rst, .wait] }.inbox = .rst :: [Input.wait] := by
  decide +kernel

theorem witness_ForceClearCompletes : Accepts .forceClear State.reset := by unfold Accepts; decide
theorem witness_ReinitCompletes : Accepts .reinit State.reset := by unfold Accepts; decide
theorem witness_Write : Accepts (.write 0x01#7 1#8) (idleWith 1#32 [] []) ∧
    Accepts (.write 0x7E#7 32#8) (idleWith 0xFFFFFFFF#32 [] []) := by unfold Accepts; decide
theorem witness_Read : Accepts (.read 0x01#7 1#8) (idleWith 1#32 [] []) ∧
    Accepts (.read 0x7E#7 32#8) (idleWith 0xFFFFFFFF#32 [] []) := by unfold Accepts; decide
theorem witness_Measure : Accepts .measure (idleWith 1#32 [] []) := by unfold Accepts; decide
theorem witness_Scan : Accepts .scan (idleWith 1#32 [] []) := by unfold Accepts; decide

theorem witness_PollTakesAtMostItsBudget : (1#32 : Word) ≠ 0#32 := by decide

/-- The bus free at the first and at the last sample; busy throughout, and then free or busy at the recheck. -/
theorem witness_WaitBusFreeForcesOneStop :
    (3#32 : Word) ≠ 0#32 ∧ (flagsAhead (idleWith 3#32 [smp 0 0 0 0] []) 0).busy = false ∧
    (∀ k, k < 2 → (flagsAhead (idleWith 3#32 [smp 1 0 0 0, smp 1 0 0 0, smp 0 0 0 0] []) k).busy = true) ∧
    (flagsAhead (idleWith 3#32 [smp 1 0 0 0, smp 1 0 0 0, smp 0 0 0 0] []) 2).busy = false ∧
    (∀ k, k < 3 → (flagsAhead (idleWith 3#32 (List.replicate 3 (smp 1 0 0 0) ++ [smp 0 0 0 0]) []) k).busy = true) ∧
    (flagsAhead (idleWith 3#32 (List.replicate 3 (smp 1 0 0 0) ++ [smp 0 0 0 0]) []) 3).busy = false ∧
    (∀ k, k < 3 → (flagsAhead (idleWith 3#32 (List.replicate 4 (smp 1 0 0 0)) []) k).busy = true) ∧
    (flagsAhead (idleWith 3#32 (List.replicate 4 (smp 1 0 0 0)) []) 3).busy = true := by
  decide

/-- The shortest and the longest transfer. -/
theorem witness_WriteUnderIdealEnv :
    Accepts (.write 0x44#7 1#8) (idleWith 1#32 (List.replicate 4 idealFlags) []) ∧
    (idleWith 1#32 (List.replicate 4 idealFlags) []).flagsIn =
      List.replicate ((1#8 : Byte).toNat + 3) idealFlags ++ [] ∧
    Accepts (.write 0x7E#7 32#8) (idleWith 1#32 (List.replicate 35 idealFlags) []) ∧
    (idleWith 1#32 (List.replicate 35 idealFlags) []).flagsIn =
      List.replicate ((32#8 : Byte).toNat + 3) idealFlags ++ [] := by
  unfold Accepts
  decide

theorem witness_ReadUnderIdealEnv :
    Accepts (.read 0x44#7 1#8) (idleWith 1#32 (List.replicate 4 idealFlags) [0xAB#8]) ∧
    (idleWith 1#32 (List.replicate 4 idealFlags) [0xAB#8]).flagsIn =
      List.replicate ((1#8 : Byte).toNat + 3) idealFlags ++ [] ∧
    (idleWith 1#32 (List.replicate 4 idealFlags) [0xAB#8]).rxIn = [] ++ [0xAB#8] ++ [] ∧
    ([] : List Byte).length + 1 = (1#8 : Byte).toNat := by
  unfold Accepts
  decide

theorem witness_Exits : ∃ a l, Instr.read 0x44#7 4#8 = .write a l ∨ Instr.read 0x44#7 4#8 = .read a l :=
  ⟨0x44#7, 4#8, .inr rfl⟩

theorem witness_MeasureRefused :
    (idleWith 0#32 [] []).busy = false ∧ (idleWith 0#32 [] []).tbShort = 0#32 ∧
      { idleWith 1#32 [] [] with tbLong := 0#32 }.busy = false ∧
      { idleWith 1#32 [] [] with tbLong := 0#32 }.tbLong = 0#32 := by decide

theorem witness_TemperatureIsClamped :
    flt32 (numTemp 8192#14) fTempLo = false ∧ flt32 fTempHi (numTemp 8192#14) = false ∧ (1#14 : BitVec 14) ≠ 0#14 ∧
      (1#14 : BitVec 14) ≠ 16383#14 := by decide +kernel

theorem witness_NumMeetsItsContract : (1#14 : BitVec 14) ≠ 0#14 := by decide

theorem witness_NumIsStrictlyIncreasing : (16382#14 : BitVec 14).toNat < (16383#14 : BitVec 14).toNat := by decide

theorem witness_PresentMeansTheProbeSucceeded : 1 ≤ 1 ∧ 1 ≤ 0x7E ∧ 1 ≤ 0x7E ∧ 0x7E ≤ 0x7E := by decide

theorem witness_PrimitiveSteps :
    (idleWith 0#32 [] []).busy = false ∧ (idleWith 0#32 [] []).inbox = [] ∧
      ran (exec .forceClear { idleWith 0#32 [] [] with caller := .blocks }) = true := by decide +kernel

theorem witness_CoreStepMakesOneEvent : ran (coreStep running) = true := by decide +kernel

theorem witness_StatusFlagsDoNotSteerCommands : ran (exec .forceClear State.reset) = true := by decide +kernel

/-- The position of a block with a command in progress, as a computation. -/
def positioned (s : State) : Bool :=
  s.busy &&
    (match s.upc with
      | .idle => false
      | .accepted i => decide (s.cmd = encode i) && decide (s.opcur = opField (encode i))
      | _ => true)

theorem position_of (s : State) (h : positioned s = true) : PositionInv s := by
  unfold positioned at h
  rw [Bool.and_eq_true] at h
  refine ⟨⟨fun _ he => ?_, fun _ => h.1⟩, fun i hi => ?_⟩
  · rw [he] at h
    cases h.2
  · rw [hi] at h
    simpa using h.2

/-- The recovery of that FORCE_CLEAR, one primitive further. -/
def pinsTaken : State := after (coreStep running)

theorem witness_BlockNeverGetsStuck : PositionInv State.reset ∧ PositionInv running ∧ PositionInv pinsTaken :=
  ⟨⟨by decide, fun _ h => by cases h⟩, position_of _ (by decide +kernel), position_of _ (by decide +kernel)⟩

theorem witness_BufferStaysCanonical : BufferInv dataNackState ∧ ran (step dataNackState) = true := by
  unfold BufferInv
  decide +kernel

theorem witness_PinsTakenMeansDesynchronised :
    PinsInv pinsTaken ∧ pinsTaken.pinOvr = true ∧ ran (step pinsTaken) = true := by
  unfold PinsInv
  decide +kernel

theorem witness_ValidReadingStaysCoherent :
    ReadingInv measured ∧ measured.rdValid = true ∧ ran (step measured) = true := by
  unfold ReadingInv
  decide +kernel

/-- A SCAN that a polling HOST has issued. -/
def scanAccepted : State := after (exec .scan { idleWith 2#32 [smp 1 0 0 0, smp 0 0 0 0] [] with caller := .polls })

/-- The same after the first sample of its first probe. -/
def scanRunning : State := after (coreStep scanAccepted)

theorem witness_ScanFileStaysInRange :
    PositionInv scanAccepted ∧ ScanInv scanAccepted ∧ scanAccepted.upc = .accepted .scan ∧ PositionInv scanRunning ∧
      ScanInv scanRunning ∧ scanRunning.busy = true ∧ scanRunning.opcur = 5#4 ∧ ran (step scanRunning) = true := by
  refine ⟨position_of _ (by decide +kernel), ⟨by decide +kernel, by decide +kernel, by decide +kernel, fun _ => rfl, ?_⟩,
    rfl, position_of _ (by decide +kernel),
    ⟨by decide +kernel, by decide +kernel, by decide +kernel, fun _ => rfl, fun _ => by decide +kernel⟩,
    by decide +kernel, by decide +kernel, by decide +kernel⟩
  intro h
  exact absurd rfl (h.2.2 .scan)

theorem witness_CountersNeverWrap :
    PositionInv scanRunning ∧ CountersInv scanRunning ∧ polling scanRunning.upc = true ∧
      ran (step scanRunning) = true :=
  ⟨position_of _ (by decide +kernel),
    ⟨by decide +kernel, by decide +kernel, by decide +kernel, by decide +kernel, trivial, by decide +kernel,
      by decide +kernel, by decide +kernel⟩,
    by decide +kernel, by decide +kernel⟩

theorem witness_StateMachinesNameTheirPhase :
    PositionInv scanRunning ∧ StatesInv scanRunning ∧ scanRunning.estate = .waitFree ∧
      ran (step scanRunning) = true ∧ PositionInv pinsTaken ∧ StatesInv pinsTaken ∧ pinsTaken.upc = .fcDrive :=
  ⟨position_of _ (by decide +kernel),
    ⟨rfl, by decide +kernel, by decide +kernel, by decide +kernel, by decide +kernel⟩, by decide +kernel,
    by decide +kernel, position_of _ (by decide +kernel),
    ⟨trivial, by decide +kernel, by decide +kernel, by decide +kernel, by decide +kernel⟩, by decide +kernel⟩

/-- A MEASURE that a polling HOST has issued, inside its trigger: D_TRIGGERED and a write. -/
def triggering : State :=
  after (coreStep (after (exec .measure { idleWith 2#32 [smp 0 0 0 0] [] with caller := .polls })))

theorem witness_StateMachinesNameTheirPhase_measure :
    PositionInv triggering ∧ StatesInv triggering ∧ triggering.opcur = 4#4 ∧ triggering.dstate = .triggered ∧
      triggering.xdir = .write :=
  ⟨position_of _ (by decide +kernel),
    ⟨rfl, by decide +kernel, by decide +kernel, fun _ _ _ => .inl ⟨by decide +kernel, by decide +kernel⟩,
      by decide +kernel⟩,
    by decide +kernel, by decide +kernel, by decide +kernel⟩

theorem witness_TraceKeepsItsShape : TraceInv running ∧ ran (step running) = true :=
  ⟨⟨position_of _ (by decide +kernel), by decide +kernel, ⟨true, false, some (.cmd 0x30000000#32), []⟩,
    by decide +kernel, by decide +kernel, by decide +kernel, rfl⟩, by decide +kernel⟩

theorem witness_TraceKeepsItsShape_pins : TraceInv pinsTaken ∧ ran (step pinsTaken) = true :=
  ⟨⟨position_of _ (by decide +kernel), by decide +kernel, ⟨true, true, some (.pinDrv true true), []⟩,
    by decide +kernel, by decide +kernel, by decide +kernel, ⟨rfl, rfl⟩⟩, by decide +kernel⟩

/-- The six clauses: idle and busy, each with no input, YIELD and WAIT. -/
theorem witness_IdleBlockTakesNoStep :
    State.reset.busy = false ∧ State.reset.inbox = [] ∧
      { State.reset with inbox := [.yield] }.inbox = [Input.yield] ∧
      { State.reset with inbox := [.wait] }.inbox = [Input.wait] ∧ running.busy = true ∧ running.inbox = [] ∧
      { running with inbox := [.yield] }.inbox = [Input.yield] ∧
      { running with inbox := [.wait] }.inbox = [Input.wait] ∧
      ran (step { running with inbox := [.wait] }) = true := by decide +kernel

/-- A WRITE that a polling HOST has issued, with answers that let it succeed. -/
def writing : State := after (exec (.write 0x44#7 1#8) { idleWith 2#32 (List.replicate 4 idealFlags) [] with caller := .polls })

/-- `n` steps of the CORE. -/
def coreSteps : Nat → State → State
  | 0, s => s
  | n + 1, s => coreSteps n (after (coreStep s))

/-- Each clause is met in a run: the positions of WRITE after its start condition, its start poll, its stop and its stop
delay, and the first two of FORCE_CLEAR. -/
theorem witness_AssignmentsGoWithTheNextPrimitive :
    (coreSteps 2 writing).upc = .stStart ∧ ran (coreStep (coreSteps 2 writing)) = true ∧
      (coreSteps 3 writing).upc = .stSmp (some .ready) ∧ ran (coreStep (coreSteps 3 writing)) = true ∧
      (coreSteps 8 writing).upc = .spStop ∧ ran (coreStep (coreSteps 8 writing)) = true ∧
      (coreSteps 9 writing).upc = .spDly ∧ (coreSteps 9 writing).opcur = 1#4 ∧
      ran (coreStep (coreSteps 9 writing)) = true ∧ running.upc = .accepted .forceClear ∧
      ran (coreStep running) = true ∧ pinsTaken.upc = .fcDrive ∧ ran (coreStep pinsTaken) = true := by decide +kernel

end Sys2Proof.Tests
end

section
/-! ## Proofs: one primitive per step, and no step that gets stuck

What one step of the CORE can do to the registers that are not the CORE's own (`Primitive`), said once per part of
`coreStep` and then of `coreStep` itself; the meaning of a command as one use of `command`; and the statements on
stops, on events and on assignments that follow. -/

open Sys2Proof Sys2Proof.Machine Sys2Proof.Safety

namespace Sys2Proof.Proofs

/-! ### The meaning of a command is one use of `command` -/

/-- The operation of a command from accept to its outcome: the `run` its meaning hands to `command`. -/
def operation : Instr → State → Result × State
  | .write a l => runWrite a l
  | .read a l => runRead a l
  | .forceClear => fun s => (okResult, runForceClear s)
  | .measure => runMeasure
  | .scan => runScan
  | .reinit => fun s => (okResult, runReinit s)

/-- What a command does when it is accepted: the `atAccept` its meaning hands to `command`. -/
def onAccept : Instr → State → State
  | .measure => beginMeasure
  | .scan => clearScan
  | _ => id

theorem exec_eq_command (i : Instr) (s : State) : exec i s = command i (operation i) (onAccept i) s := by
  cases i <;> rfl

theorem exec_next (i : Instr) (s : State) : ∃ t, exec i s = .next t := by
  rw [exec_eq_command]
  unfold command
  split
  · exact ⟨_, rfl⟩
  · split
    · split <;> exact ⟨_, rfl⟩
    · exact ⟨_, rfl⟩

theorem cmdWrite_next (w : Word) (s : State) : ∃ t, cmdWrite w s = .next t := by
  unfold cmdWrite
  split
  · exact exec_next _ s
  · exact ⟨_, rfl⟩

@[simp] theorem onAccept_busy (i : Instr) (s : State) : (onAccept i s).busy = s.busy := by cases i <;> rfl
@[simp] theorem onAccept_inbox (i : Instr) (s : State) : (onAccept i s).inbox = s.inbox := by cases i <;> rfl
@[simp] theorem onAccept_cmd (i : Instr) (s : State) : (onAccept i s).cmd = s.cmd := by cases i <;> rfl
@[simp] theorem onAccept_opcur (i : Instr) (s : State) : (onAccept i s).opcur = s.opcur := by cases i <;> rfl

/-! ### What one primitive does to the registers that are not the CORE's own -/

/-- The part of the state a step of the CORE changes by its one event only: the HOST's registers, its inputs and its
record, TRACE and the outcome. -/
structure Outline where
  cmd     : Word
  opcur   : BitVec 4
  tbudget : Word
  tbShort : Word
  tbLong  : Word
  cmdOvr  : Bool
  inbox   : List Input
  reads   : List (Offset × Word)
  trace   : List Event
  busy    : Bool
  done    : Bool
  result  : Result

def outline (s : State) : Outline where
  cmd     := s.cmd
  opcur   := s.opcur
  tbudget := s.tbudget
  tbShort := s.tbShort
  tbLong  := s.tbLong
  cmdOvr  := s.cmdOvr
  inbox   := s.inbox
  reads   := s.reads
  trace   := s.trace
  busy    := s.busy
  done    := s.done
  result  := s.result

/-- A position after a primitive inside a command. -/
def inside : Upc → Bool
  | .idle => false
  | .accepted _ => false
  | _ => true

/-- One primitive of rule R8 leads from `s` to `t`: one event that is no `Ret`, and the command goes on; or `Ret`, and
it is over. Everything else in the outline is unchanged. -/
def Primitive (s t : State) : Prop :=
  (∃ e, (∀ r, e ≠ .ret r) ∧ inside t.upc = true ∧ outline t = { outline s with trace := s.trace ++ [e] }) ∨
  (∃ r, t.upc = .idle ∧
    outline t = { outline s with trace := s.trace ++ [.ret r], busy := false, done := true, result := r })

/-- What the CORE assigns before its next primitive is no part of the outline. -/
theorem Primitive.of_outline_eq {s s' t : State} (h : outline s' = outline s) (hp : Primitive s' t) :
    Primitive s t := by
  have htr : s'.trace = s.trace := congrArg Outline.trace h
  unfold Primitive at hp ⊢
  rwa [h, htr] at hp

theorem pollSample_primitive (c : PollCond) (watch : Bool) {u : Option PollResult → Upc} (hu : ∀ o, inside (u o) = true)
    (s : State) : Primitive s (pollSample c watch u s) :=
  .inl ⟨.smp (nextFlags s), nofun, hu _, rfl⟩

theorem beginPoll_primitive (c : PollCond) (watch : Bool) {u : Option PollResult → Upc} (hu : ∀ o, inside (u o) = true)
    (s : State) : Primitive s (beginPoll c watch u s) :=
  .inl ⟨.smp (nextFlags s), nofun, hu _, rfl⟩

theorem afterSample_primitive (c : PollCond) (watch : Bool) {u : Option PollResult → Upc} (o : Option PollResult)
    {ready nack timeout : State → State} (s : State) (hu : ∀ o, inside (u o) = true)
    (hready : ∀ s, Primitive s (ready s)) (hnack : ∀ s, Primitive s (nack s))
    (htimeout : ∀ s, Primitive s (timeout s)) : Primitive s (afterSample c watch u o ready nack timeout s) := by
  obtain ⟨-, h⟩ | ⟨-, h⟩ | ⟨-, h⟩ | ⟨-, -, h⟩ | ⟨-, -, h⟩ := afterSample_cases c watch u o ready nack timeout s
    <;> rw [h]
  · exact hready s
  · exact hnack s
  · exact htimeout s
  · exact (htimeout (countDown s)).of_outline_eq rfl
  · exact (pollSample_primitive c watch hu (countDown s)).of_outline_eq rfl

theorem startXact_primitive (d : Dir) (a : BusAddr) (l : Byte) (b : Word) (sel : XSel) (s : State) :
    Primitive s (startXact d a l b sel s) :=
  .inl ⟨.smp (nextFlags s), nofun, rfl, rfl⟩

theorem toStart_primitive (s : State) : Primitive s (toStart s) := by
  obtain ⟨-, h⟩ | ⟨-, h⟩ := toStart_cases s <;> rw [h]
  · exact .inl ⟨.start, nofun, rfl, rfl⟩
  · exact .inl ⟨.ack true, nofun, rfl, rfl⟩

theorem toAddress_primitive (s : State) : Primitive s (toAddress s) :=
  .inl ⟨.tx (addressByte s.xaddr s.xdir), nofun, rfl, rfl⟩

theorem toData_primitive (s : State) : Primitive s (toData s) := by
  obtain ⟨-, -, h⟩ | ⟨-, -, h⟩ | ⟨-, -, h⟩ | ⟨-, h⟩ := toData_cases s <;> rw [h]
  · exact .inl ⟨.tx (arrayByte s.xsel s s.xidx.toNat), nofun, rfl, rfl⟩
  · exact .inl ⟨.ack false, nofun, rfl, rfl⟩
  · exact beginPoll_primitive _ _ (fun _ => rfl) s
  · exact .inl ⟨.stop, nofun, rfl, rfl⟩

theorem byteDone_primitive (s : State) : Primitive s (byteDone s) :=
  (toData_primitive (setXidx (s.xidx.toNat + 1) s)).of_outline_eq rfl

theorem toRxRead_primitive (s : State) : Primitive s (toRxRead s) :=
  .inl ⟨.rx (nextRx s), nofun, rfl, rfl⟩

theorem toNackExit_primitive (s : State) : Primitive s (toNackExit s) := .inl ⟨.nackClr, nofun, rfl, rfl⟩

theorem toForceClear_primitive (s : State) : Primitive s (toForceClear s) := .inl ⟨.pinDrv true true, nofun, rfl, rfl⟩

theorem toPulse_primitive (k : Nat) (s : State) : Primitive s (toPulse k s) := .inl ⟨.scl false, nofun, rfl, rfl⟩

theorem pulseDone_primitive (s : State) : Primitive s (pulseDone s) := by
  obtain ⟨-, h⟩ | ⟨-, h⟩ := pulseDone_cases s <;> rw [h]
  · exact toPulse_primitive _ s
  · exact .inl ⟨.dly Config.tClearSettle, nofun, rfl, rfl⟩

theorem complete_primitive (r : Result) (s : State) : Primitive s (complete r s) := .inr ⟨r, rfl, rfl⟩

theorem recoveryDone_primitive (s : State) : Primitive s (recoveryDone s) := by
  unfold recoveryDone
  split
  · exact .inl ⟨.dly Config.tRecoverSettle, nofun, rfl, rfl⟩
  · exact (complete_primitive okResult { s with rstate := .idle }).of_outline_eq rfl

theorem afterProbe_primitive (s : State) : Primitive s (afterProbe s) := by
  unfold afterProbe
  split
  · exact (startXact_primitive _ _ _ _ _ { s with saddr := s.saddr + 1#7 }).of_outline_eq rfl
  · exact complete_primitive okResult s

theorem finish_failMeasure_primitive (c : Code) (st : Stage) (s : State) :
    Primitive s (finish (failMeasure c st s)) :=
  (complete_primitive ⟨c, st, 0#8⟩ { s with dstate := .failed }).of_outline_eq rfl

theorem afterTrigger_primitive (c : Code) (s : State) : Primitive s (afterTrigger c s) := by
  unfold afterTrigger
  split
  · exact .inl ⟨.dly Config.tConv, nofun, rfl, rfl⟩
  · exact finish_failMeasure_primitive _ _ s

theorem outline_decodePayload (s : State) : outline (decodePayload s).2 = outline s := by
  obtain ⟨-, -, h⟩ | ⟨-, -, h⟩ := decodePayload_cases s <;> rw [h] <;> rfl

theorem afterRead_primitive (c : Code) (s : State) : Primitive s (afterRead c s) := by
  unfold afterRead
  split
  · exact (complete_primitive (decodePayload s).1 (decodePayload s).2).of_outline_eq (outline_decodePayload s)
  · exact toForceClear_primitive s

theorem outline_notePresent (c : Code) (s : State) : outline (notePresent c s) = outline s := by cases c <;> rfl

theorem xactDone_primitive (c : Code) (s : State) : Primitive s (xactDone c s) := by
  refine Primitive.of_outline_eq (s' := { s with xcode := c }) rfl ?_
  obtain ⟨-, -, h⟩ | ⟨-, -, h⟩ | ⟨-, h⟩ | ⟨-, -, h⟩ := xactDone_cases c s <;> rw [h]
  · exact afterTrigger_primitive c _
  · exact afterRead_primitive c _
  · exact (afterProbe_primitive _).of_outline_eq (outline_notePresent c _)
  · exact complete_primitive _ _

theorem plainExit_primitive (c : Code) (s : State) : Primitive s (plainExit c s) :=
  (xactDone_primitive c { s with estate := .failed }).of_outline_eq rfl

theorem outline_arrayStore (sel : XSel) (i : Nat) (v : Byte) (s : State) :
    outline (arrayStore sel i v s) = outline s := by
  rw [arrayStore_frame]; rfl

theorem firstPrimitive_primitive (i : Instr) (s : State) : Primitive s (firstPrimitive i s) := by
  cases i with
  | write a l => exact startXact_primitive _ _ _ _ _ s
  | read a l => exact startXact_primitive _ _ _ _ _ s
  | forceClear => exact toForceClear_primitive s
  | measure => exact startXact_primitive _ _ _ _ _ s
  | scan => exact (startXact_primitive _ _ _ _ _ { s with saddr := BitVec.ofNat 7 Config.addrMin }).of_outline_eq rfl
  | reinit => exact .inl ⟨.pinRel, nofun, rfl, rfl⟩

/-- From every position in a command the CORE takes a step, and it is one primitive. -/
theorem coreStep_primitive {s : State} (h : s.upc ≠ .idle) : ∃ t, coreStep s = .next t ∧ Primitive s t := by
  unfold coreStep
  cases hu : s.upc with
  | idle => exact absurd hu h
  | accepted i => exact ⟨_, rfl, firstPrimitive_primitive i s⟩
  | wfSmp o =>
    exact ⟨_, rfl, afterSample_primitive _ _ o s (fun _ => rfl) toStart_primitive toStart_primitive
      (fun s' => .inl ⟨.stop, nofun, rfl, rfl⟩)⟩
  | wfStop => exact ⟨_, rfl, .inl ⟨.dly Config.tBusfreeRetry, nofun, rfl, rfl⟩⟩
  | wfDly => exact ⟨_, rfl, .inl ⟨.smp (nextFlags s), nofun, rfl, rfl⟩⟩
  | wfRecheck busy =>
    refine ⟨_, rfl, ?_⟩
    cases busy with
    | true => exact plainExit_primitive .busStuck s
    | false => exact toStart_primitive s
  | stAck => exact ⟨_, rfl, .inl ⟨.start, nofun, rfl, rfl⟩⟩
  | stStart => exact ⟨_, rfl, beginPoll_primitive _ _ (fun _ => rfl) s⟩
  | stSmp o =>
    exact ⟨_, rfl, afterSample_primitive _ _ o s (fun _ => rfl) toAddress_primitive toAddress_primitive
      (plainExit_primitive _)⟩
  | adTx => exact ⟨_, rfl, beginPoll_primitive _ _ (fun _ => rfl) s⟩
  | adSmp o =>
    exact ⟨_, rfl, afterSample_primitive _ _ o s (fun _ => rfl)
      (fun s' => (toData_primitive { s' with estate := .data }).of_outline_eq rfl) toNackExit_primitive
      (plainExit_primitive _)⟩
  | txByte => exact ⟨_, rfl, beginPoll_primitive _ _ (fun _ => rfl) s⟩
  | txSmp o =>
    exact ⟨_, rfl, afterSample_primitive _ _ o s (fun _ => rfl) byteDone_primitive toNackExit_primitive
      (plainExit_primitive _)⟩
  | rxAck => exact ⟨_, rfl, beginPoll_primitive _ _ (fun _ => rfl) s⟩
  | rxSmp o =>
    exact ⟨_, rfl, afterSample_primitive _ _ o s (fun _ => rfl) toRxRead_primitive toRxRead_primitive
      (plainExit_primitive _)⟩
  | rxByte b => exact ⟨_, rfl, (byteDone_primitive _).of_outline_eq (outline_arrayStore _ _ b s)⟩
  | spStop => exact ⟨_, rfl, .inl ⟨.dly Config.tStopSettle, nofun, rfl, rfl⟩⟩
  | spDly => exact ⟨_, rfl, (xactDone_primitive .ok _).of_outline_eq rfl⟩
  | nkClear => exact ⟨_, rfl, .inl ⟨.stop, nofun, rfl, rfl⟩⟩
  | nkStop => exact ⟨_, rfl, .inl ⟨.dly Config.tNackSettle, nofun, rfl, rfl⟩⟩
  | nkDly => exact ⟨_, rfl, (xactDone_primitive (nackCode s) _).of_outline_eq rfl⟩
  | fcDrive => exact ⟨_, rfl, (toPulse_primitive 1 _).of_outline_eq rfl⟩
  | fcLow => exact ⟨_, rfl, .inl ⟨.dly Config.tEdge, nofun, rfl, rfl⟩⟩
  | fcLowDly => exact ⟨_, rfl, .inl ⟨.scl true, nofun, rfl, rfl⟩⟩
  | fcHigh => exact ⟨_, rfl, .inl ⟨.dly Config.tEdge, nofun, rfl, rfl⟩⟩
  | fcHighDly => exact ⟨_, rfl, pulseDone_primitive s⟩
  | fcSettle => exact ⟨_, rfl, recoveryDone_primitive s⟩
  | convDly =>
    refine ⟨_, rfl, ?_⟩
    exact (startXact_primitive .read Config.sensorAddr Config.payloadLen s.opLong .pay _).of_outline_eq rfl
  | recoverDly => exact ⟨_, rfl, finish_failMeasure_primitive s.xcode .read s⟩
  | riRelease => exact ⟨_, rfl, .inl ⟨.reinit, nofun, rfl, rfl⟩⟩
  | riReinit => exact ⟨_, rfl, (complete_primitive okResult _).of_outline_eq rfl⟩

theorem coreStep_idle {s : State} (h : s.upc = .idle) : coreStep s = .fault .noCommandInProgress := by
  simp [coreStep, h]

theorem primitive_of_coreStep {s t : State} (h : coreStep s = .next t) : Primitive s t := by
  have hu : s.upc ≠ .idle := fun hu => by simp [coreStep_idle hu] at h
  obtain ⟨t', ht', hp⟩ := coreStep_primitive hu
  rw [ht'] at h
  injection h with h
  exact h ▸ hp

/-! ### The position of the CORE -/

theorem positionInv_of_primitive {s t : State} (hb : s.busy = true) (hp : Primitive s t) : PositionInv t := by
  obtain ⟨e, -, hin, ho⟩ | ⟨r, hidle, ho⟩ := hp
  · have hbusy : t.busy = true := (congrArg Outline.busy ho).trans hb
    exact ⟨iff_of_true hbusy (fun h => by simp [h, inside] at hin), fun i h => by simp [h, inside] at hin⟩
  · have hbusy : t.busy = false := congrArg Outline.busy ho
    exact ⟨by simp [hbusy, hidle], fun i h => by simp [hidle] at h⟩

/-- The position does not look at what lies outside CMD, OPCUR, BUSY and the position itself. -/
theorem positionInv_congr {s t : State} (h : PositionInv s) (hb : t.busy = s.busy) (hu : t.upc = s.upc)
    (hc : t.cmd = s.cmd) (ho : t.opcur = s.opcur) : PositionInv t := by
  unfold PositionInv
  rw [hb, hu, hc, ho]
  exact h

theorem positionInv_idle {s : State} (hb : s.busy = false) (hu : s.upc = .idle) : PositionInv s :=
  ⟨by simp [hb, hu], fun i h => by simp [hu] at h⟩

theorem upc_idle_of_positionInv {s : State} (h : PositionInv s) (hb : s.busy = false) : s.upc = .idle := by
  by_contra hu
  simp [h.1.mpr hu] at hb

theorem positionInv_refuseWord {s : State} (h : PositionInv s) (hb : s.busy = false) (w : Word) :
    PositionInv (refuseWord (takeWord w s)) := by
  have hu : s.upc = .idle := upc_idle_of_positionInv h hb
  exact positionInv_idle hb hu

theorem positionInv_exec {i : Instr} {s t : State} (h : PositionInv s) (he : exec i s = .next t) : PositionInv t := by
  rw [exec_eq_command] at he
  obtain ⟨-, rfl⟩ | ⟨hb, -, rfl⟩ | ⟨-, -, -, rfl⟩ | ⟨-, -, -, rfl⟩ := command_cases he
  · exact positionInv_congr h rfl rfl rfl rfl
  · exact positionInv_refuseWord h hb _
  · exact positionInv_idle rfl rfl
  · refine ⟨iff_of_true (by simp [goTo]) nofun, fun j hj => ?_⟩
    obtain rfl : i = j := by simpa [goTo] using hj
    simp [goTo, takeWord]

theorem positionInv_cmdWrite {w : Word} {s t : State} (h : PositionInv s) (hw : cmdWrite w s = .next t) :
    PositionInv t := by
  unfold cmdWrite at hw
  split at hw
  · exact positionInv_exec h hw
  · injection hw with hw
    subst hw
    unfold cmdIllegal
    split
    · exact positionInv_congr h rfl rfl rfl rfl
    · exact positionInv_refuseWord h (by simpa using ‹¬ s.busy = true›) w

theorem positionInv_hostWrite {s : State} (h : PositionInv s) (off : Offset) (v : Word) :
    PositionInv (hostWrite off v s) := by
  obtain hw | ⟨i, hw⟩ := hostWrite_frame off v s
  · rw [hw]; exact positionInv_congr h rfl rfl rfl rfl
  · rw [hw, bufStore_frame]; exact positionInv_congr h rfl rfl rfl rfl

/-! ### Every outcome of a step -/

/-- The step went on with a consistent position, or refused a misaligned access; it did not fault. -/
def Unstuck : Host.Outcome State Fault Refusal → Prop
  | .next t => PositionInv t
  | .fault _ => False
  | .refused r => ∃ off, r = .misalignedAccess off ∧ off.toNat % 4 ≠ 0

theorem coreStep_unstuck {s : State} (h : PositionInv s) (hb : s.busy = true) : Unstuck (coreStep s) := by
  obtain ⟨t, ht, hp⟩ := coreStep_primitive (h.1.mp hb)
  rw [ht]
  exact positionInv_of_primitive hb hp

theorem coreTurn_unstuck {s : State} (h : PositionInv s) : Unstuck (coreTurn s) := by
  unfold coreTurn
  split
  · exact coreStep_unstuck h ‹_›
  · exact h

theorem misaligned_unstuck {off : Offset} (h : ¬ aligned off = true) : Unstuck (.refused (.misalignedAccess off)) :=
  ⟨off, rfl, by simpa [aligned] using h⟩

theorem hrd_unstuck {s : State} (h : PositionInv s) (off : Offset) : Unstuck (hrd off s) := by
  unfold hrd
  split
  · exact positionInv_congr h rfl rfl rfl rfl
  · exact misaligned_unstuck ‹_›

theorem hwr_unstuck {s : State} (h : PositionInv s) (off : Offset) (v : Word) : Unstuck (hwr off v s) := by
  unfold hwr
  split
  · split
    · obtain ⟨t, ht⟩ := cmdWrite_next v s
      rw [ht]
      exact positionInv_cmdWrite h ht
    · exact positionInv_hostWrite h off v
  · exact misaligned_unstuck ‹_›

theorem input_unstuck {s : State} (h : PositionInv s) (x : Input) (rest : List Input) : Unstuck (input x rest s) := by
  have hrest : PositionInv { s with inbox := rest } := positionInv_congr h rfl rfl rfl rfl
  cases x with
  | hrd off => exact hrd_unstuck hrest off
  | hwr off v => exact hwr_unstuck hrest off v
  | wait =>
    unfold input
    dsimp only
    split
    · exact coreStep_unstuck h ‹_›
    · exact positionInv_congr hrest rfl rfl rfl rfl
  | yield => exact coreTurn_unstuck hrest
  | rst => exact positionInv_idle rfl rfl

theorem step_unstuck {s : State} (h : PositionInv s) : Unstuck (step s) := by
  cases hi : s.inbox with
  | nil => rw [step_nil s hi]; exact coreTurn_unstuck h
  | cons x rest => rw [step_cons s x rest hi]; exact input_unstuck h x rest

/-! ### The statements -/

/-- Settles O47: the position is consistent after every input and after every primitive, and each outcome of the step is
one of those `Unstuck` allows. -/
theorem blockNeverGetsStuck : Obligations.BlockNeverGetsStuck := by
  intro s h
  have hs := step_unstuck h
  refine ⟨fun t ht => ?_, fun f hf => ?_, fun r hr => ?_⟩
  · rwa [ht] at hs
  · rwa [hf] at hs
  · rwa [hr] at hs

/-- Settles O45: the step is one primitive, and a primitive keeps the outline but for its event. -/
theorem coreStepMakesOneEvent : Obligations.CoreStepMakesOneEvent := by
  intro s t h
  obtain ⟨e, -, -, ho⟩ | ⟨r, -, ho⟩ := primitive_of_coreStep h
  · injection ho with hcmd hopcur htb hts htl hovr hin hrd htr hbusy hdone hres
    exact ⟨e, htr, hcmd, hopcur, htb, hts, htl, hovr, hin, hrd, fun _ => ⟨hbusy, hdone, hres⟩⟩
  · injection ho with hcmd hopcur htb hts htl hovr hin hrd htr hbusy hdone hres
    exact ⟨.ret r, htr, hcmd, hopcur, htb, hts, htl, hovr, hin, hrd, fun hne => absurd rfl (hne r)⟩

/-- Settles O8: every meaning is a use of `command`, each of whose branches answers a next state. -/
theorem commandsNeverStopTheMachine : Obligations.CommandsNeverStopTheMachine :=
  ⟨exec_next, cmdWrite_next⟩

/-- Settles O59: each clause is the CORE's step at one position. -/
theorem assignmentsGoWithTheNextPrimitive : Obligations.AssignmentsGoWithTheNextPrimitive := by
  refine ⟨?startPoll, ?address, ?stopDelay, ?done, ?takePins, ?firstPulse⟩
  case startPoll =>
    intro s t hu h
    obtain rfl : beginPoll .txReady false .stSmp s = t := by simpa [coreStep, hu] using h
    exact ⟨rfl, rfl⟩
  case address =>
    intro s t hu h
    obtain rfl : toAddress s = t := by simpa [coreStep, hu, afterSample] using h
    exact ⟨rfl, rfl, rfl⟩
  case stopDelay =>
    intro s t hu h
    obtain rfl : goTo .spDly (dly Config.tStopSettle s) = t := by simpa [coreStep, hu] using h
    exact ⟨rfl, rfl⟩
  case done =>
    intro s t hu hop h
    obtain rfl : xactDone .ok { s with estate := .done } = t := by simpa [coreStep, hu] using h
    simp [xactDone, hop, finish, complete]
  case takePins =>
    intro s t hu h
    obtain rfl : toForceClear s = t := by simpa [coreStep, hu, firstPrimitive] using h
    exact ⟨rfl, rfl, rfl, rfl⟩
  case firstPulse =>
    intro s t hu h
    obtain rfl : toPulse 1 { s with rstate := .pulse } = t := by simpa [coreStep, hu] using h
    exact ⟨rfl, rfl, rfl⟩

end Sys2Proof.Proofs
end

section
/-! ## Proofs: the CORE, one primitive at a time, does what the procedures do (R8, R9, R83)

`Reaches s t`: moves of the CORE lead from `s` to `t`. Each procedure of the family files is followed by the moves of
the CORE, from its first primitive on to the first primitive of what comes after it (`resume`, `pollThen`). A procedure
keeps the position it starts with while the CORE moves it, but a primitive overwrites the position without reading it
(`xactDone_goTo`), so the two runs meet in one state whenever the CORE makes its next primitive. -/

open Sys2Proof Sys2Proof.Machine Sys2Proof.Safety

namespace Sys2Proof.Proofs

/-! ### Moves of the CORE -/

/-- A command is in progress and the HOST makes no access: the next step of the machine is the CORE's. -/
def Running (s : State) : Prop := s.busy = true ∧ s.inbox = []

def CoreMove (s t : State) : Prop := Running s ∧ coreStep s = .next t

def Reaches : State → State → Prop := Relation.ReflTransGen CoreMove

theorem Reaches.refl {s : State} : Reaches s s := Relation.ReflTransGen.refl

theorem Reaches.trans {s t v : State} (h : Reaches s t) (k : Reaches t v) : Reaches s v :=
  Relation.ReflTransGen.trans h k

theorem Reaches.next {s t v : State} (hr : Running s) (h : coreStep s = .next t) (k : Reaches t v) : Reaches s v :=
  Relation.ReflTransGen.head ⟨hr, h⟩ k

theorem step_of_running {s : State} (h : Running s) : step s = coreStep s := by
  rw [step_nil s h.2, coreTurn, if_pos h.1]

theorem steps_of_reaches {s t : State} (h : Reaches s t) : ∃ n, steps n s = .next t := by
  induction h using Relation.ReflTransGen.head_induction_on with
  | refl => exact ⟨0, rfl⟩
  | head hmove _ ih =>
    obtain ⟨hr, hs⟩ := hmove
    obtain ⟨n, hn⟩ := ih
    exact ⟨n + 1, by rw [steps, step_of_running hr, hs]; exact hn⟩

@[simp] theorem running_goTo (u : Upc) (s : State) : Running (goTo u s) ↔ Running s := .rfl
@[simp] theorem running_emit (e : Event) (s : State) : Running (emit e s) ↔ Running s := .rfl
@[simp] theorem running_luSample (s : State) : Running (luSample s) ↔ Running s := .rfl
@[simp] theorem running_pinScl (v : Bool) (s : State) : Running (pinScl v s) ↔ Running s := .rfl
@[simp] theorem running_pinRelease (s : State) : Running (pinRelease s) ↔ Running s := .rfl
@[simp] theorem running_latchXact (d : Dir) (a : BusAddr) (l : Byte) (b : Word) (sel : XSel) (s : State) :
    Running (latchXact d a l b sel s) ↔ Running s := .rfl

theorem Running.engine {s t : State} (h : Running s) (f : EngineFrame s t) : Running t :=
  ⟨f.busy.trans h.1, f.inbox.trans h.2⟩

/-! ### The CORE does not look at the kind of HOST -/

def withCaller (c : Caller) (s : State) : State := { s with caller := c }

@[simp] theorem withCaller_xdir (c : Caller) (s : State) : (withCaller c s).xdir = s.xdir := rfl
@[simp] theorem withCaller_xidx (c : Caller) (s : State) : (withCaller c s).xidx = s.xidx := rfl
@[simp] theorem withCaller_xlen (c : Caller) (s : State) : (withCaller c s).xlen = s.xlen := rfl

/-- `k` neither reads nor writes the kind of HOST. -/
abbrev CallerBlind (k : State → State) : Prop := ∀ c s, k (withCaller c s) = withCaller c (k s)

theorem afterSample_callerBlind (c : PollCond) (watch : Bool) (u : Option PollResult → Upc) (o : Option PollResult)
    {ready nack timeout : State → State} (hready : CallerBlind ready) (hnack : CallerBlind nack)
    (htimeout : CallerBlind timeout) : CallerBlind (afterSample c watch u o ready nack timeout) := by
  intro cl s
  match o with
  | some .ready => exact hready cl s
  | some .nack => exact hnack cl s
  | some .timeout => exact htimeout cl s
  | none =>
    simp only [afterSample, apply_ite (withCaller cl)]
    rw [← htimeout cl (countDown s)]
    rfl

theorem toStart_callerBlind : CallerBlind toStart := by
  intro c s
  cases h : s.xdir <;> simp [toStart, h] <;> rfl

theorem toData_callerBlind : CallerBlind toData := by
  intro c s
  by_cases hl : s.xidx.toNat < s.xlen.toNat
  · cases hd : s.xdir
    · simp [toData, hl, hd]; rfl
    · by_cases he : s.xidx.toNat + 1 = s.xlen.toNat <;> simp [toData, hl, hd, he] <;> rfl
  · simp [toData, hl]; rfl

theorem pulseDone_callerBlind : CallerBlind pulseDone := by
  intro c s
  simp only [pulseDone, apply_ite (withCaller c)]
  rfl

theorem recoveryDone_callerBlind : CallerBlind recoveryDone := by
  intro c s
  simp only [recoveryDone, apply_ite (withCaller c)]
  rfl

theorem notePresent_callerBlind (x : Code) : CallerBlind (notePresent x) := by
  intro c s
  cases x <;> rfl

theorem afterProbe_callerBlind : CallerBlind afterProbe := by
  intro c s
  simp only [afterProbe, apply_ite (withCaller c)]
  rfl

theorem afterTrigger_callerBlind (x : Code) : CallerBlind (afterTrigger x) := by
  intro c s
  cases x <;> rfl

theorem finish_decodePayload_callerBlind : CallerBlind fun s => finish (decodePayload s) := by
  intro c s
  cases h : payloadStatus s.pay <;> simp [finish, decodePayload, withCaller, h] <;> rfl

theorem afterRead_callerBlind (x : Code) : CallerBlind (afterRead x) := by
  intro c s
  cases x
  case ok => exact finish_decodePayload_callerBlind c s
  all_goals rfl

theorem xactDone_callerBlind (x : Code) : CallerBlind (xactDone x) := by
  intro c s
  simp only [xactDone, apply_ite (withCaller c)]
  rw [← afterTrigger_callerBlind, ← afterRead_callerBlind, ← afterProbe_callerBlind, ← notePresent_callerBlind]
  rfl

theorem plainExit_callerBlind (x : Code) : CallerBlind (plainExit x) :=
  fun c s => xactDone_callerBlind x c { s with estate := .failed }

theorem byteDone_callerBlind : CallerBlind byteDone :=
  fun c s => toData_callerBlind c (setXidx (s.xidx.toNat + 1) s)

theorem arrayStore_callerBlind (sel : XSel) (i : Nat) (v : Byte) : CallerBlind (arrayStore sel i v) := by
  intro c s
  cases sel with
  | buf => simp only [arrayStore, bufStore, apply_ite (withCaller c)]; rfl
  | pay => rfl
  | const b => rfl

theorem firstPrimitive_callerBlind (i : Instr) : CallerBlind (firstPrimitive i) := by
  intro c s
  cases i <;> rfl

theorem coreStep_withCaller {s t : State} (c : Caller) (h : coreStep s = .next t) :
    coreStep (withCaller c s) = .next (withCaller c t) := by
  have hu : (withCaller c s).upc = s.upc := rfl
  unfold coreStep at h ⊢
  rw [hu]
  cases hs : s.upc <;> rw [hs] at h <;> cases h <;> refine congrArg Host.Outcome.next ?_
  case accepted i => exact firstPrimitive_callerBlind i c s
  case wfSmp o => exact afterSample_callerBlind _ _ _ o toStart_callerBlind toStart_callerBlind (fun _ _ => rfl) c s
  case wfRecheck busy =>
    cases busy
    · exact toStart_callerBlind c s
    · exact plainExit_callerBlind .busStuck c s
  case stSmp o =>
    exact afterSample_callerBlind _ _ _ o (fun _ _ => rfl) (fun _ _ => rfl) (plainExit_callerBlind _) c s
  case adSmp o =>
    exact afterSample_callerBlind _ _ _ o (fun c s => toData_callerBlind c { s with estate := .data }) (fun _ _ => rfl)
      (plainExit_callerBlind _) c s
  case txSmp o =>
    exact afterSample_callerBlind _ _ _ o byteDone_callerBlind (fun _ _ => rfl) (plainExit_callerBlind _) c s
  case rxSmp o =>
    exact afterSample_callerBlind _ _ _ o (fun _ _ => rfl) (fun _ _ => rfl) (plainExit_callerBlind _) c s
  case rxByte b =>
    rw [← byteDone_callerBlind, ← arrayStore_callerBlind]
    rfl
  case spDly => exact xactDone_callerBlind .ok c { s with estate := .done, upc := .spDly }
  case nkDly => exact xactDone_callerBlind (nackCode s) c { s with estate := .failed, upc := .nkDly }
  case fcHighDly => exact pulseDone_callerBlind c s
  case fcSettle => exact recoveryDone_callerBlind c s
  all_goals rfl

theorem reaches_withCaller {s t : State} (c : Caller) (h : Reaches s t) : Reaches (withCaller c s) (withCaller c t) :=
  Relation.ReflTransGen.lift (withCaller c) (fun _ _ hm => ⟨hm.1, coreStep_withCaller c hm.2⟩) _ _ h

end Sys2Proof.Proofs
end

section
/-! ## Proofs: each procedure, followed by the moves of the CORE -/

open Sys2Proof Sys2Proof.Machine Sys2Proof.Safety

namespace Sys2Proof.Proofs

/-! ### No primitive looks at the position the CORE leaves -/

theorem finish_decodePayload_goTo (u : Upc) (s : State) :
    finish (decodePayload (goTo u s)) = finish (decodePayload s) := by
  cases h : payloadStatus s.pay <;> simp [finish, decodePayload, goTo, h] <;> rfl

theorem xactDone_goTo (c : Code) (u : Upc) (s : State) : xactDone c (goTo u s) = xactDone c s := by
  cases c
  case ok =>
    have h := finish_decodePayload_goTo u { s with xcode := .ok }
    simp only [xactDone, afterRead]
    simp only [goTo] at h ⊢
    rw [h]
    rfl
  all_goals rfl

theorem arrayStore_goTo (sel : XSel) (i : Nat) (v : Byte) (u : Upc) (s : State) :
    arrayStore sel i v (goTo u s) = goTo u (arrayStore sel i v s) := by
  cases sel with
  | buf => simp only [arrayStore, bufStore, apply_ite (goTo u)]; rfl
  | pay => rfl
  | const b => rfl

theorem byteDone_goTo (u : Upc) (s : State) : byteDone (goTo u s) = byteDone s := rfl

/-! ### The CORE's move from each position that is no sample of a poll -/

theorem coreStep_accepted (i : Instr) (s : State) :
    coreStep (goTo (.accepted i) s) = .next (firstPrimitive i s) := by cases i <;> rfl

theorem coreStep_wfStop (s : State) :
    coreStep (goTo .wfStop s) = .next (goTo .wfDly (dly Config.tBusfreeRetry s)) := rfl

theorem coreStep_wfDly (s : State) :
    coreStep (goTo .wfDly s) = .next (goTo (.wfRecheck (nextFlags s).busy) (luSample s)) := rfl

theorem coreStep_wfRecheck (busy : Bool) (s : State) :
    coreStep (goTo (.wfRecheck busy) s) = .next (if busy then plainExit .busStuck s else toStart s) := by
  cases busy <;> rfl

theorem coreStep_stAck (s : State) : coreStep (goTo .stAck s) = .next (goTo .stStart (luStart s)) := rfl

theorem coreStep_stStart (s : State) : coreStep (goTo .stStart s) = .next (beginPoll .txReady false .stSmp s) := rfl

theorem coreStep_adTx (s : State) : coreStep (goTo .adTx s) = .next (beginPoll .txReady true .adSmp s) := rfl

theorem coreStep_txByte (s : State) : coreStep (goTo .txByte s) = .next (beginPoll .txReady true .txSmp s) := rfl

theorem coreStep_rxAck (s : State) : coreStep (goTo .rxAck s) = .next (beginPoll .rxReady false .rxSmp s) := rfl

theorem coreStep_rxByte (b : Byte) (s : State) :
    coreStep (goTo (.rxByte b) s) = .next (byteDone (arrayStore s.xsel s.xidx.toNat b s)) := by
  rw [← byteDone_goTo (.rxByte b), ← arrayStore_goTo]
  rfl

theorem coreStep_spStop (s : State) :
    coreStep (goTo .spStop s) = .next (goTo .spDly (dly Config.tStopSettle s)) := rfl

theorem coreStep_spDly (s : State) :
    coreStep (goTo .spDly s) = .next (xactDone .ok { s with estate := .done }) :=
  congrArg Host.Outcome.next (xactDone_goTo .ok .spDly { s with estate := .done })

theorem coreStep_nkClear (s : State) : coreStep (goTo .nkClear s) = .next (goTo .nkStop (luStop s)) := rfl

theorem coreStep_nkStop (s : State) :
    coreStep (goTo .nkStop s) = .next (goTo .nkDly (dly Config.tNackSettle s)) := rfl

theorem coreStep_nkDly (s : State) :
    coreStep (goTo .nkDly s) = .next (xactDone (nackCode s) { s with estate := .failed }) :=
  congrArg Host.Outcome.next (xactDone_goTo (nackCode s) .nkDly { s with estate := .failed })

theorem coreStep_fcDrive (s : State) :
    coreStep (goTo .fcDrive s) = .next (toPulse 1 { s with rstate := .pulse }) := rfl

theorem coreStep_fcLow (s : State) : coreStep (goTo .fcLow s) = .next (goTo .fcLowDly (dly Config.tEdge s)) := rfl

theorem coreStep_fcLowDly (s : State) : coreStep (goTo .fcLowDly s) = .next (goTo .fcHigh (pinScl true s)) := rfl

theorem coreStep_fcHigh (s : State) : coreStep (goTo .fcHigh s) = .next (goTo .fcHighDly (dly Config.tEdge s)) := rfl

theorem coreStep_fcHighDly (s : State) : coreStep (goTo .fcHighDly s) = .next (pulseDone s) := rfl

theorem coreStep_fcSettle (s : State) : coreStep (goTo .fcSettle s) = .next (recoveryDone s) := rfl

theorem coreStep_convDly (s : State) :
    coreStep (goTo .convDly s) =
      .next (startXact .read Config.sensorAddr Config.payloadLen s.opLong .pay { s with dstate := .reading }) := rfl

theorem coreStep_recoverDly (s : State) :
    coreStep (goTo .recoverDly s) = .next (finish (failMeasure s.xcode .read s)) := rfl

theorem coreStep_riRelease (s : State) : coreStep (goTo .riRelease s) = .next (goTo .riReinit (luReinit s)) := rfl

theorem coreStep_riReinit (s : State) :
    coreStep (goTo .riReinit s) = .next (complete okResult { s with desync := false, estate := .idle }) := rfl

/-! ### The poll (R141) -/

/-- What a poll can change: CNT, ENV's answers to samples, and TRACE. -/
theorem pollLoop_frame (c : PollCond) (watch : Bool) (n : Nat) (s : State) :
    ∃ cnt flagsIn nSmp trace, (pollLoop c watch n s).2 =
      { s with cnt := cnt, flagsIn := flagsIn, nSmp := nSmp, trace := trace } := by
  induction n generalizing s with
  | zero => exact ⟨_, _, _, _, rfl⟩
  | succ n ih =>
    unfold pollLoop
    split
    · exact ⟨_, _, _, _, rfl⟩
    · obtain ⟨cnt, flagsIn, nSmp, trace, h⟩ := ih (countDown (luSample s))
      exact ⟨cnt, flagsIn, nSmp, trace, h⟩

@[simp] theorem poll_estate (c : PollCond) (watch : Bool) (b : Word) (s : State) :
    (poll c watch b s).2.estate = s.estate := by
  obtain ⟨cnt, flagsIn, nSmp, trace, h⟩ := pollLoop_frame c watch b.toNat { s with cnt := b }
  rw [poll, h]

@[simp] theorem poll_xidx (c : PollCond) (watch : Bool) (b : Word) (s : State) :
    (poll c watch b s).2.xidx = s.xidx := by
  obtain ⟨cnt, flagsIn, nSmp, trace, h⟩ := pollLoop_frame c watch b.toNat { s with cnt := b }
  rw [poll, h]

/-- The CORE goes on from a poll's result. -/
def pollThen (ready nack timeout : State → State) (p : PollResult × State) : State :=
  match p.1 with
  | .ready => ready p.2
  | .nack => nack p.2
  | .timeout => timeout p.2

section Poll

variable {c : PollCond} {watch : Bool} {u : Option PollResult → Upc} {ready nack timeout : State → State}
  (hu : ∀ o s, coreStep (goTo (u o) s) = .next (afterSample c watch u o ready nack timeout s))

include hu

/-- With CNT samples left, the moves of the CORE are the iterations of the poll's loop. -/
theorem pollSample_reaches (n : Nat) (s : State) (hr : Running s) (hc : s.cnt.toNat = n + 1) :
    Reaches (pollSample c watch u s) (pollThen ready nack timeout (pollLoop c watch (n + 1) s)) := by
  induction n generalizing s with
  | zero =>
    refine .next hr (hu _ _) ?_
    have hlast : (countDown (luSample s)).cnt = 0#32 := by simp; bv_omega
    cases ho : sampleOutcome c watch s with
    | some r => cases r <;> simp only [pollLoop, ho, afterSample] <;> exact .refl
    | none => simp only [pollLoop, ho, afterSample, hlast, if_true]; exact .refl
  | succ n ih =>
    refine .next hr (hu _ _) ?_
    have hcnt : (countDown (luSample s)).cnt.toNat = n + 1 := by simp; bv_omega
    have hmore : (countDown (luSample s)).cnt ≠ 0#32 := fun h => by rw [h] at hcnt; exact absurd hcnt (by simp)
    rw [pollLoop]
    cases ho : sampleOutcome c watch s with
    | some r => cases r <;> exact .refl
    | none =>
      simp only [afterSample, hmore, if_false]
      exact ih (countDown (luSample s)) hr hcnt

/-- A poll whose budget is not 0. -/
theorem beginPoll_reaches {b : Word} {s : State} (hr : Running s) (hxb : s.xb = b) (hb : b ≠ 0#32) :
    Reaches (beginPoll c watch u s) (pollThen ready nack timeout (poll c watch b s)) := by
  subst hxb
  obtain ⟨n, hn⟩ : ∃ n, s.xb.toNat = n + 1 := Nat.exists_eq_succ_of_ne_zero (fun h => hb (by bv_omega))
  rw [poll, hn]
  exact pollSample_reaches hu n { s with cnt := s.xb } hr hn

end Poll

/-! ### What follows a phase -/

/-- The CORE goes on from a phase: what follows a success is `k`; a failure is the transaction's. -/
def resume (k : State → State) (r : Code × State) : State :=
  match r.1 with
  | .ok => k r.2
  | c => xactDone c r.2

theorem resume_xactDone (r : Code × State) : resume (xactDone .ok) r = xactDone r.1 r.2 := by
  obtain ⟨c, s⟩ := r
  cases c <;> rfl

/-- Phases follow one another. -/
theorem Reaches.andThen {s : State} {k k' : State → State} {r : Code × State} {f : State → Code × State}
    (h : Reaches s (resume k r)) (hk : r.1 = .ok → Reaches (k r.2) (resume k' (f r.2))) :
    Reaches s (resume k' (andThen r f)) := by
  obtain ⟨c, t⟩ := r
  cases c
  case ok => exact h.trans (hk rfl)
  all_goals exact h

/-- NackExit (R148), in the address phase and in the data phase. -/
theorem toNackExit_reaches {s : State} (hr : Running s) :
    Reaches (toNackExit s) (xactDone (nackCode s) (failNack (nackCode s) s).2) :=
  .next hr (coreStep_nkClear _)
    (.next (by simpa using hr) (coreStep_nkStop _) (.next (by simpa using hr) (coreStep_nkDly _) .refl))

/-! ### The phases of a transaction -/

/-- A transaction with the operands `d`, `a`, `l`, `b` and `sel` is in progress: its latches hold them (R50). -/
structure InXact (d : Dir) (a : BusAddr) (l : Byte) (b : Word) (sel : XSel) (s : State) : Prop where
  running : Running s
  budget  : b ≠ 0#32
  xdir    : s.xdir = d
  xaddr   : s.xaddr = a
  xlen    : s.xlen = l
  xb      : s.xb = b
  xsel    : s.xsel = sel

section Xact

variable {d : Dir} {a : BusAddr} {l : Byte} {b : Word} {sel : XSel} {s t : State}

theorem InXact.engine (h : InXact d a l b sel s) (f : EngineFrame s t) : InXact d a l b sel t where
  running := h.running.engine f
  budget := h.budget
  xdir := f.xdir.trans h.xdir
  xaddr := f.xaddr.trans h.xaddr
  xlen := f.xlen.trans h.xlen
  xb := f.xb.trans h.xb
  xsel := f.xsel.trans h.xsel

/-- A poll of a transaction: its budget is the one latched. -/
theorem InXact.beginPoll_reaches {c : PollCond} {watch : Bool} {u : Option PollResult → Upc}
    {ready nack timeout : State → State} (h : InXact d a l b sel s)
    (hu : ∀ o s, coreStep (goTo (u o) s) = .next (afterSample c watch u o ready nack timeout s)) :
    Reaches (beginPoll c watch u s) (pollThen ready nack timeout (poll c watch b s)) :=
  Proofs.beginPoll_reaches hu h.running h.xb h.budget

/-- WaitBusFree (R142). -/
theorem waitBusFree_reaches (h : InXact d a l b sel s) :
    Reaches (beginPoll .busFree false .wfSmp { s with estate := .waitFree }) (resume toStart (waitBusFree b s)) := by
  have hw := h.engine (estate_engine .waitFree s)
  refine (hw.beginPoll_reaches (ready := toStart) (nack := toStart) (timeout := fun s' => goTo .wfStop (luStop s'))
    fun _ _ => rfl).trans ?_
  have hp := hw.running.engine (poll_engine .busFree false b _)
  unfold waitBusFree
  generalize poll .busFree false b { s with estate := .waitFree } = p at hp ⊢
  obtain ⟨r, t⟩ := p
  cases r
  case ready => exact .refl
  case nack => exact .refl
  case timeout =>
    refine Reaches.next hp (coreStep_wfStop _) (.next (by simpa using hp) (coreStep_wfDly _)
      (.next (by simpa using hp) (coreStep_wfRecheck _ _) ?_))
    dsimp only
    generalize dly Config.tBusfreeRetry (luStop t) = v
    cases (nextFlags v).busy <;> exact .refl

theorem startAck_engine (d : Dir) (s : State) : EngineFrame s (startAck d s) := by
  cases d
  · exact .refl s
  · exact luSetAck_engine true s

/-- StartPhase (R143). -/
theorem startPhase_reaches (h : InXact d a l b sel s) :
    Reaches (toStart s) (resume toAddress (startPhase d b s)) := by
  have hq : InXact d a l b sel (luStart (startAck d { s with estate := .start })) :=
    h.engine (((estate_engine .start s).trans (startAck_engine d _)).trans (emit_engine .start _))
  have hstart : Reaches (toStart s)
      (beginPoll .txReady false .stSmp (luStart (startAck d { s with estate := .start }))) := by
    have hr := h.running
    unfold toStart
    rw [h.xdir]
    cases d
    · exact .next hr (coreStep_stStart _) .refl
    · exact .next hr (coreStep_stAck _) (.next hr (coreStep_stStart _) .refl)
  refine hstart.trans ((hq.beginPoll_reaches (ready := toAddress) (nack := toAddress)
    (timeout := plainExit .startTimeout) fun _ _ => rfl).trans ?_)
  unfold startPhase
  generalize poll .txReady false b (luStart (startAck d { s with estate := .start })) = p
  obtain ⟨r, t⟩ := p
  cases r <;> exact .refl

/-- AddressPhase (R144). -/
theorem addressPhase_reaches (h : InXact d a l b sel s) :
    Reaches (toAddress s) (resume (fun s' => toData { s' with estate := .data }) (addressPhase a d b s)) := by
  have hq : InXact d a l b sel (luTxWrite (addressByte a d) { s with estate := .addr }) :=
    h.engine ((estate_engine .addr s).trans (emit_engine (.tx (addressByte a d)) _))
  have hstart : Reaches (toAddress s)
      (beginPoll .txReady true .adSmp (luTxWrite (addressByte a d) { s with estate := .addr })) := by
    unfold toAddress
    rw [h.xaddr, h.xdir]
    exact .next h.running (coreStep_adTx _) .refl
  refine hstart.trans ((hq.beginPoll_reaches (ready := fun s' => toData { s' with estate := .data })
    (nack := toNackExit) (timeout := plainExit .addressTimeout) fun _ _ => rfl).trans ?_)
  have hp := hq.running.engine (poll_engine .txReady true b _)
  have he := poll_estate .txReady true b (luTxWrite (addressByte a d) { s with estate := .addr })
  unfold addressPhase
  generalize poll .txReady true b (luTxWrite (addressByte a d) { s with estate := .addr }) = p at hp he ⊢
  obtain ⟨r, t⟩ := p
  cases r
  case ready => exact .refl
  case timeout => exact .refl
  case nack =>
    have hcode : nackCode t = .addressNack := if_pos he
    have hn := toNackExit_reaches hp
    rw [hcode] at hn
    exact hn

end Xact

end Sys2Proof.Proofs
end

section
/-! ## Proofs: the data loop, whole transactions and the six commands -/

open Sys2Proof Sys2Proof.Machine Sys2Proof.Safety

namespace Sys2Proof.Proofs

section Xact

variable {d : Dir} {a : BusAddr} {l : Byte} {b : Word} {sel : XSel} {s : State}

/-! ### The data loop (R150) -/

/-- DataTx or DataRx for the byte with index `i` (R145, R146). -/
def dataPhase (d : Dir) (sel : XSel) (l i : Nat) (b : Word) (s : State) : Code × State :=
  match d with
  | .write => dataTx (arrayByte sel s i) b s
  | .read => dataRx (decide (i + 1 = l)) sel i b s

theorem dataByte_eq (d : Dir) (sel : XSel) (l i : Nat) (b : Word) (s : State) :
    dataByte d sel l i b s = andThen (dataPhase d sel l i b s) (fun s' => (.ok, setXidx (i + 1) s')) := rfl

theorem dataTx_ok {v : Byte} (h : (dataTx v b s).1 = .ok) :
    (dataTx v b s).2.xidx = s.xidx ∧ (dataTx v b s).2.estate = s.estate := by
  unfold dataTx at h ⊢
  dsimp only at h ⊢
  split at h
  · exact ⟨by simp, by simp⟩
  · cases h
  · cases h

theorem dataRx_ok {last : Bool} {i : Nat} (h : (dataRx last sel i b s).1 = .ok) :
    (dataRx last sel i b s).2.xidx = s.xidx ∧ (dataRx last sel i b s).2.estate = s.estate := by
  have hx : (lastAck last s).xidx = s.xidx := by cases last <;> rfl
  have he : (lastAck last s).estate = s.estate := by cases last <;> rfl
  unfold dataRx at h ⊢
  dsimp only at h ⊢
  split at h
  · cases h
  · rw [arrayStore_frame]
    exact ⟨by simp [hx], by simp [he]⟩

theorem dataPhase_ok {n i : Nat} (h : (dataPhase d sel n i b s).1 = .ok) :
    (dataPhase d sel n i b s).2.xidx = s.xidx ∧ (dataPhase d sel n i b s).2.estate = s.estate := by
  cases d
  · exact dataTx_ok h
  · exact dataRx_ok h

/-- The transaction stands before its data byte with index `i`. -/
structure AtByte (d : Dir) (a : BusAddr) (l : Byte) (b : Word) (sel : XSel) (i : Nat) (s : State) : Prop where
  inXact : InXact d a l b sel s
  xidx   : s.xidx.toNat = i
  estate : s.estate = .data

/-- A byte that succeeds leads to the next index. -/
theorem AtByte.dataByte {i : Nat} (h : AtByte d a l b sel i s) (hi : i < l.toNat)
    (hok : (dataByte d sel l.toNat i b s).1 = .ok) : AtByte d a l b sel (i + 1) (dataByte d sel l.toNat i b s).2 := by
  have hx := h.inXact.engine (dataByte_engine d sel l.toNat i b s)
  have hphase := dataPhase_ok (d := d) (sel := sel) (n := l.toNat) (i := i) (b := b) (s := s)
  have hl := l.isLt
  rw [dataByte_eq] at hx hok ⊢
  generalize dataPhase d sel l.toNat i b s = r at hx hok hphase ⊢
  obtain ⟨c, t⟩ := r
  cases c
  case ok =>
    obtain ⟨-, he⟩ := hphase rfl
    exact ⟨hx, by simp [andThen]; omega, he.trans h.estate⟩
  all_goals cases hok

theorem dataTx_reaches (v : Byte) (h : InXact d a l b sel s) (he : s.estate = .data) :
    Reaches (goTo .txByte (luTxWrite v s)) (resume byteDone (dataTx v b s)) := by
  have hq : InXact d a l b sel (luTxWrite v s) := h.engine (emit_engine (.tx v) s)
  refine .next hq.running (coreStep_txByte _) ((hq.beginPoll_reaches (ready := byteDone) (nack := toNackExit)
    (timeout := plainExit .dataTimeout) fun _ _ => rfl).trans ?_)
  have hp := hq.running.engine (poll_engine .txReady true b _)
  have hpe := (poll_estate .txReady true b (luTxWrite v s)).trans he
  unfold dataTx
  generalize poll .txReady true b (luTxWrite v s) = p at hp hpe ⊢
  obtain ⟨r, t⟩ := p
  cases r
  case ready => exact .refl
  case timeout => exact .refl
  case nack =>
    have hcode : nackCode t = .dataNack := if_neg (by rw [hpe]; decide)
    have hn := toNackExit_reaches hp
    rw [hcode] at hn
    exact hn

theorem lastAck_engine (last : Bool) (s : State) : EngineFrame s (lastAck last s) := by
  cases last
  · exact .refl s
  · exact luSetAck_engine false s

theorem dataRx_reaches (last : Bool) (h : InXact d a l b sel s) :
    Reaches (beginPoll .rxReady false .rxSmp (lastAck last s))
      (resume byteDone (dataRx last sel s.xidx.toNat b s)) := by
  have hq := h.engine (lastAck_engine last s)
  refine (hq.beginPoll_reaches (ready := toRxRead) (nack := toRxRead)
    (timeout := plainExit .dataTimeout) fun _ _ => rfl).trans ?_
  have hp := hq.engine (poll_engine .rxReady false b _)
  have hx : (poll .rxReady false b (lastAck last s)).2.xidx = s.xidx := by
    rw [poll_xidx]; cases last <;> rfl
  unfold dataRx
  generalize poll .rxReady false b (lastAck last s) = p at hp hx ⊢
  obtain ⟨r, t⟩ := p
  have hread : Reaches (toRxRead t) (byteDone (arrayStore sel s.xidx.toNat (nextRx t) (luRxRead t))) := by
    refine .next hp.running (coreStep_rxByte _ _) ?_
    rw [luRxRead_xsel, luRxRead_xidx, hp.xsel, hx]
    exact .refl
  cases r
  case ready => exact hread
  case nack => exact hread
  case timeout => exact .refl

theorem dataPhase_reaches {i : Nat} (h : AtByte d a l b sel i s) (hi : i < l.toNat) :
    Reaches (toData s) (resume byteDone (dataPhase d sel l.toNat i b s)) := by
  obtain ⟨hx, rfl, he⟩ := h
  unfold toData dataPhase
  rw [hx.xlen, if_pos hi, hx.xdir, hx.xsel]
  cases d with
  | write => exact dataTx_reaches _ hx he
  | read =>
    dsimp only
    split
    case isTrue hlast =>
      rw [decide_eq_true hlast]
      exact .next hx.running (coreStep_rxAck _) (dataRx_reaches true hx)
    case isFalse hmore =>
      rw [decide_eq_false hmore]
      exact dataRx_reaches false hx

theorem dataByte_reaches {i : Nat} (h : AtByte d a l b sel i s) (hi : i < l.toNat) :
    Reaches (toData s) (resume toData (dataByte d sel l.toNat i b s)) := by
  rw [dataByte_eq]
  refine (dataPhase_reaches h hi).andThen fun hok => ?_
  obtain ⟨hx, -⟩ := dataPhase_ok hok
  rw [byteDone, hx, h.xidx]
  exact .refl

/-- StopPhase up to its first primitive (R147). -/
def toStop (s : State) : State := goTo .spStop (luStop { s with estate := .stop })

theorem dataLoop_reaches {n i : Nat} (h : AtByte d a l b sel i s) (hn : i + n = l.toNat) :
    Reaches (toData s) (resume toStop (dataLoop d sel l.toNat b n i s)) := by
  induction n generalizing i s with
  | zero =>
    have hend : ¬ s.xidx.toNat < s.xlen.toNat := by rw [h.xidx, h.inXact.xlen]; omega
    rw [toData, if_neg hend]
    exact .refl
  | succ n ih =>
    have hi : i < l.toNat := by omega
    exact (dataByte_reaches h hi).andThen fun hok => ih (h.dataByte hi hok) (by omega)

/-- StopPhase (R147), and the transaction's success. -/
theorem toStop_reaches (hr : Running s) : Reaches (toStop s) (xactDone .ok (stopPhase s)) := by
  have hs : Running { s with estate := .stop } := hr
  exact .next hr (coreStep_spStop _) (.next (by simpa using hs) (coreStep_spDly _) .refl)

/-! ### Xact (R150) -/

theorem waitBusFree_xidx (b : Word) (s : State) : (waitBusFree b s).2.xidx = s.xidx := by
  unfold waitBusFree
  dsimp only
  split
  · split <;> simp [failPlain]
  · simp

theorem startPhase_xidx (d : Dir) (b : Word) (s : State) : (startPhase d b s).2.xidx = s.xidx := by
  have h : (startAck d { s with estate := .start }).xidx = s.xidx := by cases d <;> rfl
  unfold startPhase
  dsimp only
  split <;> simp [failPlain, h]

theorem addressPhase_xidx (a : BusAddr) (d : Dir) (b : Word) (s : State) :
    (addressPhase a d b s).2.xidx = s.xidx := by
  unfold addressPhase
  dsimp only
  split <;> simp [failPlain, failNack]

theorem xactPhases_reaches (h : InXact d a l b sel s) (hx : s.xidx = 0#8) :
    Reaches (beginPoll .busFree false .wfSmp { s with estate := .waitFree })
      (resume (xactDone .ok) (xactPhases d a l b sel s)) := by
  refine (waitBusFree_reaches h).andThen fun _ => ?_
  replace h := h.engine (waitBusFree_engine b s)
  replace hx := (waitBusFree_xidx b s).trans hx
  generalize (waitBusFree b s).2 = s1 at h hx ⊢
  refine (startPhase_reaches h).andThen fun _ => ?_
  replace h := h.engine (startPhase_engine d b s1)
  replace hx := (startPhase_xidx d b s1).trans hx
  generalize (startPhase d b s1).2 = s2 at h hx ⊢
  refine (addressPhase_reaches h).andThen fun _ => ?_
  replace h := (h.engine (addressPhase_engine a d b s2)).engine (estate_engine .data _)
  replace hx := (addressPhase_xidx a d b s2).trans hx
  generalize (addressPhase a d b s2).2 = s3 at h hx ⊢
  refine (dataLoop_reaches (i := 0) ⟨h, by simp [hx], rfl⟩ (by omega)).andThen fun _ => ?_
  exact toStop_reaches (h.engine (dataLoop_engine d sel l.toNat b l.toNat 0 _)).running

/-- A whole transaction, from the CORE's first sample to what its caller does with the code it returns. -/
theorem startXact_reaches (d : Dir) (a : BusAddr) (l : Byte) (sel : XSel) (hr : Running s) (hb : b ≠ 0#32) :
    Reaches (startXact d a l b sel s) (xactDone (xact d a l b sel s).1 (xact d a l b sel s).2) := by
  have h := xactPhases_reaches (s := latchXact d a l b sel s) ⟨by simpa using hr, hb, rfl, rfl, rfl, rfl, rfl⟩ rfl
  rw [resume_xactDone] at h
  exact h

end Xact

/-- A transaction changes no register its caller uses to go on (R50, R201). -/
theorem xact_running (d : Dir) (a : BusAddr) (l : Byte) (b : Word) (sel : XSel) {s : State} (h : Running s) :
    Running (xact d a l b sel s).2 :=
  have f := xactPhases_engine d a l b sel (latchXact d a l b sel s)
  ⟨f.busy.trans h.1, f.inbox.trans h.2⟩

theorem xact_opcur (d : Dir) (a : BusAddr) (l : Byte) (b : Word) (sel : XSel) (s : State) :
    (xact d a l b sel s).2.opcur = s.opcur :=
  (xactPhases_engine d a l b sel (latchXact d a l b sel s)).opcur

theorem xact_dstate (d : Dir) (a : BusAddr) (l : Byte) (b : Word) (sel : XSel) (s : State) :
    (xact d a l b sel s).2.dstate = s.dstate :=
  (xactPhases_engine d a l b sel (latchXact d a l b sel s)).dstate

theorem xact_opShort (d : Dir) (a : BusAddr) (l : Byte) (b : Word) (sel : XSel) (s : State) :
    (xact d a l b sel s).2.opShort = s.opShort :=
  (xactPhases_engine d a l b sel (latchXact d a l b sel s)).opShort

theorem xact_opLong (d : Dir) (a : BusAddr) (l : Byte) (b : Word) (sel : XSel) (s : State) :
    (xact d a l b sel s).2.opLong = s.opLong :=
  (xactPhases_engine d a l b sel (latchXact d a l b sel s)).opLong

theorem xact_saddr (d : Dir) (a : BusAddr) (l : Byte) (b : Word) (sel : XSel) (s : State) :
    (xact d a l b sel s).2.saddr = s.saddr :=
  (xactPhases_engine d a l b sel (latchXact d a l b sel s)).saddr

/-! ### The commands -/

/-- WRITE and READ (R154, R155): the code and the index of the one transaction are the result. -/
theorem dataCommand_reaches (d : Dir) (a : BusAddr) (l : Byte) {s : State} (hr : Running s) (hb : s.opBudget ≠ 0#32)
    (h4 : s.opcur ≠ 4#4) (h5 : s.opcur ≠ 5#4) :
    Reaches (startXact d a l s.opBudget .buf s)
      (complete ⟨(xact d a l s.opBudget .buf s).1, .none, (xact d a l s.opBudget .buf s).2.xidx⟩
        (xact d a l s.opBudget .buf s).2) := by
  refine (startXact_reaches d a l .buf hr hb).trans ?_
  have hop := xact_opcur d a l s.opBudget .buf s
  rw [xactDone, if_neg (hop ▸ h4), if_neg (hop ▸ h5)]
  exact .refl

/-! #### FORCE_CLEAR (R130, R131) -/

/-- The settle delay of `ForceClear()`, its first primitive. -/
def toSettle (s : State) : State :=
  goTo .fcSettle (dly Config.tClearSettle { s with pulse := 0#4, rstate := .settle })

/-- One pulse is four primitives. -/
theorem clockPulse_reaches {k : Nat} {s : State} (hr : Running s) :
    Reaches (toPulse k s) (pulseDone (clockPulse k s)) := by
  have hs : Running { s with pulse := BitVec.ofNat 4 k } := hr
  exact .next hs (coreStep_fcLow _) (.next (by simpa using hs) (coreStep_fcLowDly _)
    (.next (by simpa using hs) (coreStep_fcHigh _) (.next (by simpa using hs) (coreStep_fcHighDly _) .refl)))

theorem clockPulse_pulse {k : Nat} (s : State) (hk : k < 16) : (clockPulse k s).pulse.toNat = k := by
  rw [clockPulse_eq, BitVec.toNat_ofNat, Nat.mod_eq_of_lt hk]

/-- The pulses from pulse `k` on, `n` of them after it. -/
theorem clockPulses_reaches {n k : Nat} {s : State} (hr : Running s) (hk : k + n = Config.nPulses) :
    Reaches (toPulse k s) (toSettle (clockPulses (n + 1) k s)) := by
  have hnine : Config.nPulses = 9 := rfl
  induction n generalizing k s with
  | zero =>
    refine (clockPulse_reaches hr).trans ?_
    rw [pulseDone, clockPulse_pulse s (by omega), if_neg (by omega)]
    exact .refl
  | succ n ih =>
    refine (clockPulse_reaches hr).trans ?_
    rw [pulseDone, clockPulse_pulse s (by omega), if_pos (by omega)]
    have hr' : Running (clockPulse k s) := by rw [clockPulse_eq]; exact hr
    exact ih hr' (by omega)

/-- The pulses change the pins, PULSE and TRACE only (R131). -/
theorem clockPulses_frame (n k : Nat) (s : State) :
    ∃ pulse sclO trace, clockPulses n k s = { s with pulse := pulse, sclO := sclO, trace := trace } := by
  induction n generalizing k s with
  | zero => exact ⟨_, _, _, rfl⟩
  | succ n ih =>
    obtain ⟨pulse, sclO, trace, h⟩ := ih (k + 1) (clockPulse k s)
    exact ⟨pulse, sclO, trace, h⟩

/-- `ForceClear()` (R131), up to what its caller does. -/
theorem runForceClear_reaches {s : State} (hr : Running s) :
    Reaches (toForceClear s) (recoveryDone (runForceClear s)) := by
  have ht : Running (takePins s) := hr
  have hp : Running (clockPulses Config.nPulses 1 (takePins s)) := by
    obtain ⟨pulse, sclO, trace, h⟩ := clockPulses_frame Config.nPulses 1 (takePins s)
    rw [h]; exact hr
  exact .next hr (coreStep_fcDrive _) ((clockPulses_reaches (n := 8) ht rfl).trans
    (.next hp (coreStep_fcSettle _) .refl))

theorem runForceClear_opcur (s : State) : (runForceClear s).opcur = s.opcur := by
  obtain ⟨pulse, sclO, trace, h⟩ := clockPulses_frame Config.nPulses 1 (takePins s)
  rw [runForceClear, h]; rfl

theorem runForceClear_xcode (s : State) : (runForceClear s).xcode = s.xcode := by
  obtain ⟨pulse, sclO, trace, h⟩ := clockPulses_frame Config.nPulses 1 (takePins s)
  rw [runForceClear, h]; rfl

theorem runForceClear_running {s : State} (hr : Running s) : Running (runForceClear s) := by
  obtain ⟨pulse, sclO, trace, h⟩ := clockPulses_frame Config.nPulses 1 (takePins s)
  rw [runForceClear, h]; exact hr

/-- `ForceClear()` leaves RSTATE idle, so its caller goes on from the very state it leaves. -/
theorem recoveryDone_runForceClear (s : State) :
    recoveryDone (runForceClear s) =
      if s.opcur = 4#4 then goTo .recoverDly (dly Config.tRecoverSettle (runForceClear s))
      else complete okResult (runForceClear s) := by
  have hidle : (runForceClear s).rstate = .idle := rfl
  rw [← runForceClear_opcur s]
  generalize runForceClear s = v at hidle ⊢
  rw [recoveryDone, ← hidle]

/-- FORCE_CLEAR completes after it (R130). -/
theorem forceClear_reaches {s : State} (hr : Running s) (h4 : s.opcur ≠ 4#4) :
    Reaches (toForceClear s) (complete okResult (runForceClear s)) := by
  refine (runForceClear_reaches hr).trans ?_
  rw [recoveryDone_runForceClear, if_neg h4]
  exact .refl

/-! #### REINIT (R133) -/

theorem reinit_reaches {s : State} (hr : Running s) :
    Reaches (goTo .riRelease (pinRelease s)) (complete okResult (runReinit s)) :=
  .next (by simpa using hr) (coreStep_riRelease _) (.next (by simpa using hr) (coreStep_riReinit _) .refl)

/-! #### MEASURE (R170 to R174) -/

/-- A failed read of MEASURE: recovery, 50 ms, and the failure (R174). -/
theorem failedRead_reaches {s : State} (hr : Running s) (h4 : s.opcur = 4#4) :
    Reaches (toForceClear s)
      (finish (failMeasure s.xcode .read (dly Config.tRecoverSettle (runForceClear s)))) := by
  refine (runForceClear_reaches hr).trans ?_
  rw [recoveryDone_runForceClear, if_pos h4, ← runForceClear_xcode s]
  exact .next (by simpa using runForceClear_running hr) (coreStep_recoverDly _) .refl

/-- Stage 3 of MEASURE, from the read's first sample. -/
theorem readStage_reaches {s : State} (hr : Running s) (h4 : s.opcur = 4#4) (hd : s.dstate = .reading)
    (hb : s.opLong ≠ 0#32) :
    Reaches (startXact .read Config.sensorAddr Config.payloadLen s.opLong .pay s)
      (finish (readStage s)) := by
  refine (startXact_reaches _ _ _ _ hr hb).trans ?_
  have hr' : Running (readXact s).2 := xact_running _ _ _ _ _ hr
  have hop : (readXact s).2.opcur = 4#4 := (xact_opcur _ _ _ _ _ s).trans h4
  have hds : (readXact s).2.dstate ≠ .triggered := ((xact_dstate _ _ _ _ _ s).trans hd).trans_ne (by decide)
  have hxc : (readXact s).2.xcode = (readXact s).1 := rfl
  change Reaches (xactDone (readXact s).1 (readXact s).2) _
  rw [readStage, xactDone, if_pos hop, if_neg hds]
  generalize readXact s = x at hr' hop hxc ⊢
  obtain ⟨c, t⟩ := x
  obtain rfl : t.xcode = c := hxc
  have hfail := failedRead_reaches hr' hop
  change Reaches (afterRead t.xcode t) _
  generalize t.xcode = c at hfail ⊢
  cases c
  case ok => exact .refl
  all_goals exact hfail

theorem measure_reaches {s : State} (hr : Running s) (h4 : s.opcur = 4#4) (hshort : s.opShort ≠ 0#32)
    (hlong : s.opLong ≠ 0#32) :
    Reaches (firstPrimitive .measure (beginMeasure s)) (finish (runMeasure s)) := by
  refine (startXact_reaches (s := beginMeasure s) _ _ _ _ hr hshort).trans ?_
  have hr' : Running (triggerXact (beginMeasure s)).2 := xact_running (s := beginMeasure s) _ _ _ _ _ hr
  have hop : (triggerXact (beginMeasure s)).2.opcur = 4#4 := (xact_opcur _ _ _ _ _ _).trans h4
  have hds : (triggerXact (beginMeasure s)).2.dstate = .triggered := xact_dstate _ _ _ _ _ _
  have hb : (triggerXact (beginMeasure s)).2.opLong ≠ 0#32 := (xact_opLong _ _ _ _ _ _).trans_ne hlong
  have hxc : (triggerXact (beginMeasure s)).2.xcode = (triggerXact (beginMeasure s)).1 := rfl
  change Reaches (xactDone (triggerXact (beginMeasure s)).1 (triggerXact (beginMeasure s)).2) _
  rw [runMeasure, xactDone, if_pos hop, if_pos hds]
  generalize triggerXact (beginMeasure s) = x at hr' hop hb hxc ⊢
  obtain ⟨c, t⟩ := x
  obtain rfl : t.xcode = c := hxc
  change Reaches (afterTrigger t.xcode t) _
  have hread : Reaches (afterTrigger .ok t)
      (finish (readStage { dly Config.tConv { t with dstate := .await } with dstate := .reading })) :=
    .next hr' (coreStep_convDly _) (readStage_reaches hr' hop rfl hb)
  generalize t.xcode = c
  cases c
  case ok => exact hread
  all_goals exact .refl

/-! #### SCAN (R190) -/

theorem notePresent_frame (c : Code) (s : State) :
    ∃ present count, notePresent c s = { s with present := present, count := count } := by
  cases c <;> exact ⟨_, _, rfl⟩

/-- The transaction of the probe of address `a` (R190). -/
def probeXact (a : Nat) (s : State) : Code × State :=
  xact .write (BitVec.ofNat 7 a) 1#8 s.opShort (.const Config.scanProbe) { s with saddr := BitVec.ofNat 7 a }

theorem probe_eq (a : Nat) (s : State) : probe a s = notePresent (probeXact a s).1 (probeXact a s).2 := rfl

/-- A scan goes on: SADDR is the address probed last, and nothing else the scan rests on has changed. -/
theorem probe_keeps (a : Nat) {s : State} (hr : Running s) :
    Running (probe a s) ∧ (probe a s).opcur = s.opcur ∧ (probe a s).opShort = s.opShort ∧
      (probe a s).saddr = BitVec.ofNat 7 a := by
  have hx : Running (probeXact a s).2 := xact_running _ _ _ _ _ (s := { s with saddr := BitVec.ofNat 7 a }) hr
  have hop : (probeXact a s).2.opcur = s.opcur := xact_opcur _ _ _ _ _ _
  have hb : (probeXact a s).2.opShort = s.opShort := xact_opShort _ _ _ _ _ _
  have hsa : (probeXact a s).2.saddr = BitVec.ofNat 7 a := xact_saddr _ _ _ _ _ _
  obtain ⟨present, count, h⟩ := notePresent_frame (probeXact a s).1 (probeXact a s).2
  rw [probe_eq, h]
  exact ⟨hx, hop, hb, hsa⟩

theorem probe_reaches (a : Nat) {s : State} (hr : Running s) (h5 : s.opcur = 5#4) (hb : s.opShort ≠ 0#32) :
    Reaches (startProbe (BitVec.ofNat 7 a) s) (afterProbe (probe a s)) := by
  refine (startXact_reaches (s := { s with saddr := BitVec.ofNat 7 a }) _ _ _ _ hr hb).trans ?_
  have hop : (probeXact a s).2.opcur = 5#4 := (xact_opcur _ _ _ _ _ _).trans h5
  change Reaches (xactDone (probeXact a s).1 (probeXact a s).2) _
  rw [xactDone, if_neg (by rw [hop]; decide), if_pos hop]
  exact .refl

/-- The probes from address `a` on, `n` of them after it. -/
theorem scanLoop_reaches {n a : Nat} {s : State} (hr : Running s) (h5 : s.opcur = 5#4) (hb : s.opShort ≠ 0#32)
    (ha : a + n = Config.addrMax) :
    Reaches (startProbe (BitVec.ofNat 7 a) s) (complete okResult (scanLoop (n + 1) a s)) := by
  have hmax : Config.addrMax = 126 := rfl
  induction n generalizing a s with
  | zero =>
    refine (probe_reaches a hr h5 hb).trans ?_
    obtain ⟨-, -, -, hsa⟩ := probe_keeps a hr
    rw [afterProbe, hsa, if_neg (by simp; omega)]
    exact .refl
  | succ n ih =>
    refine (probe_reaches a hr h5 hb).trans ?_
    obtain ⟨hr', hop, hsh, hsa⟩ := probe_keeps a hr
    have hnext : BitVec.ofNat 7 a + 1#7 = BitVec.ofNat 7 (a + 1) := by simp [BitVec.ofNat_add]
    rw [afterProbe, hsa, if_pos (by simp; omega), hnext]
    exact ih hr' (hop.trans h5) (hsh ▸ hb) (by omega)

theorem scan_reaches {s : State} (hr : Running s) (h5 : s.opcur = 5#4) (hb : s.opShort ≠ 0#32) :
    Reaches (firstPrimitive .scan (clearScan s)) (finish (runScan s)) := by
  obtain ⟨n, hlength, hlast⟩ : ∃ n, scanLength = n + 1 ∧ Config.addrMin + n = Config.addrMax := ⟨125, rfl, rfl⟩
  rw [runScan, hlength]
  exact scanLoop_reaches (s := clearScan s) hr h5 hb hlast

/-! ### Every command -/

/-- From its first primitive, the CORE takes an accepted command to the outcome its operation gives. -/
theorem firstPrimitive_reaches (i : Instr) {s : State} (ho : operandsLegal i s = true) (hi : s.inbox = []) :
    Reaches (firstPrimitive i (onAccept i (acceptCommand i (takeWord (encode i) s))))
      (finish (operation i (acceptCommand i (takeWord (encode i) s)))) := by
  have hr : Running (acceptCommand i (takeWord (encode i) s)) := ⟨by simp, by simpa using hi⟩
  cases i with
  | write a l =>
    have hb : s.tbudget ≠ 0#32 := by simp_all [operandsLegal, budgetLegal]
    exact dataCommand_reaches .write a l hr hb (by simp) (by simp)
  | read a l =>
    have hb : s.tbudget ≠ 0#32 := by simp_all [operandsLegal, budgetLegal]
    exact dataCommand_reaches .read a l hr hb (by simp) (by simp)
  | forceClear => exact forceClear_reaches hr (by simp)
  | measure =>
    have hb : s.tbShort ≠ 0#32 ∧ s.tbLong ≠ 0#32 := by simpa [operandsLegal, budgetLegal] using ho
    exact measure_reaches hr (by simp) hb.1 hb.2
  | scan =>
    have hb : s.tbShort ≠ 0#32 := by simpa [operandsLegal, budgetLegal, Config.hasScan] using ho
    exact scan_reaches hr (by simp) hb
  | reinit => exact reinit_reaches hr

theorem accepted_reaches (i : Instr) {s : State} (ho : operandsLegal i s = true) (hi : s.inbox = []) :
    Reaches (goTo (.accepted i) (onAccept i (acceptCommand i (takeWord (encode i) s))))
      (finish (operation i (acceptCommand i (takeWord (encode i) s)))) :=
  .next ⟨by simp, by simpa using hi⟩ (coreStep_accepted i _) (firstPrimitive_reaches i ho hi)

theorem accepted_withCaller (i : Instr) (c : Caller) (s : State) :
    goTo (.accepted i) (onAccept i (acceptCommand i (takeWord (encode i) (withCaller c s)))) =
      withCaller c (goTo (.accepted i) (onAccept i (acceptCommand i (takeWord (encode i) s)))) := by
  cases i <;> rfl

/-- Settles O44: a word is refused alike for both kinds of HOST; from the accepted state on, the moves of the CORE reach
what the operation gives, and the kind of HOST makes no difference to them. -/
theorem primitiveStepsReachTheCommandsResult : Obligations.PrimitiveStepsReachTheCommandsResult := by
  intro i s t hbusy hinbox h
  change exec i (withCaller .blocks s) = .next t at h
  change ∃ u n, exec i (withCaller .polls s) = .next u ∧ steps n u = .next (withCaller .polls t)
  have hlegal (c : Caller) : operandsLegal i (withCaller c s) = operandsLegal i s := by cases i <;> rfl
  rw [exec_eq_command] at h ⊢
  cases ho : operandsLegal i s with
  | false =>
    rw [command_illegal i (operation i) (onAccept i) (withCaller .blocks s) hbusy ((hlegal .blocks).trans ho)] at h
    injection h with h
    subst h
    exact ⟨_, 0, command_illegal i (operation i) (onAccept i) (withCaller .polls s) hbusy ((hlegal .polls).trans ho),
      rfl⟩
  | true =>
    have hb := (hlegal .blocks).trans ho
    rw [command_blocks i (operation i) (onAccept i) (withCaller .blocks s) hbusy hb rfl] at h
    injection h with h
    subst h
    obtain ⟨n, hn⟩ := steps_of_reaches (reaches_withCaller .polls (accepted_reaches i hb hinbox))
    refine ⟨_, n, ?_, hn⟩
    rw [command_polls i (operation i) (onAccept i) (withCaller .polls s) hbusy ((hlegal .polls).trans ho) rfl,
      ← accepted_withCaller]
    rfl

end Sys2Proof.Proofs
end

section
/-! ## Proofs: what every step keeps

`step_keeps`: a predicate that the HOST's accesses, a reset, a refused word and the accept of a command keep, and that
every step of the CORE keeps, is kept by every step of the machine. A command that runs whole in the step of its write
needs no case of its own: it ends where the moves of the CORE end (`accepted_reaches`). -/

open Sys2Proof Sys2Proof.Machine Sys2Proof.Safety

namespace Sys2Proof.Proofs

/-! ### No procedure looks at the inputs to come -/

def withInbox (r : List Input) (s : State) : State := { s with inbox := r }

/-- `f` neither reads nor writes the inputs to come. -/
abbrev InboxBlind {α : Type} (f : State → α × State) : Prop :=
  ∀ r s, f (withInbox r s) = ((f s).1, withInbox r (f s).2)

theorem pollLoop_inboxBlind (c : PollCond) (watch : Bool) (n : Nat) : InboxBlind (pollLoop c watch n) := by
  intro r s
  induction n generalizing s with
  | zero => rfl
  | succ n ih =>
    have hsame : sampleOutcome c watch (withInbox r s) = sampleOutcome c watch s := rfl
    rw [pollLoop, pollLoop, hsame]
    cases sampleOutcome c watch s with
    | some o => rfl
    | none => exact ih (countDown (luSample s))

theorem poll_inboxBlind (c : PollCond) (watch : Bool) (b : Word) : InboxBlind (poll c watch b) :=
  fun r s => pollLoop_inboxBlind c watch b.toNat r { s with cnt := b }

theorem andThen_inboxBlind {f k : State → Code × State} (hf : InboxBlind f) (hk : InboxBlind k) :
    InboxBlind fun s => andThen (f s) k := by
  intro r s
  dsimp only
  rw [hf r s]
  generalize f s = x
  obtain ⟨c, t⟩ := x
  cases c
  case ok => exact hk r t
  all_goals rfl

theorem waitBusFree_inboxBlind (b : Word) : InboxBlind (waitBusFree b) := by
  intro r s
  have hp := poll_inboxBlind .busFree false b r { s with estate := .waitFree }
  have hsame : { withInbox r s with estate := .waitFree } = withInbox r { s with estate := .waitFree } := rfl
  unfold waitBusFree
  rw [hsame, hp]
  generalize poll .busFree false b { s with estate := .waitFree } = p
  obtain ⟨o, t⟩ := p
  cases o
  case timeout =>
    have hstop : dly Config.tBusfreeRetry (luStop (withInbox r t)) =
        withInbox r (dly Config.tBusfreeRetry (luStop t)) := rfl
    dsimp only
    rw [hstop]
    generalize dly Config.tBusfreeRetry (luStop t) = v
    rw [show nextFlags (withInbox r v) = nextFlags v from rfl]
    cases (nextFlags v).busy <;> rfl
  all_goals rfl

theorem startPhase_inboxBlind (d : Dir) (b : Word) : InboxBlind (startPhase d b) := by
  intro r s
  have hp := poll_inboxBlind .txReady false b r (luStart (startAck d { s with estate := .start }))
  have hsame : luStart (startAck d { withInbox r s with estate := .start }) =
      withInbox r (luStart (startAck d { s with estate := .start })) := by cases d <;> rfl
  unfold startPhase
  rw [hsame, hp]
  generalize poll .txReady false b (luStart (startAck d { s with estate := .start })) = p
  obtain ⟨o, t⟩ := p
  cases o <;> rfl

theorem addressPhase_inboxBlind (a : BusAddr) (d : Dir) (b : Word) : InboxBlind (addressPhase a d b) := by
  intro r s
  have hp := poll_inboxBlind .txReady true b r (luTxWrite (addressByte a d) { s with estate := .addr })
  have hsame : luTxWrite (addressByte a d) { withInbox r s with estate := .addr } =
      withInbox r (luTxWrite (addressByte a d) { s with estate := .addr }) := rfl
  unfold addressPhase
  rw [hsame, hp]
  generalize poll .txReady true b (luTxWrite (addressByte a d) { s with estate := .addr }) = p
  obtain ⟨o, t⟩ := p
  cases o <;> rfl

theorem dataTx_inboxBlind (v : Byte) (b : Word) : InboxBlind (dataTx v b) := by
  intro r s
  have hp := poll_inboxBlind .txReady true b r (luTxWrite v s)
  have hsame : luTxWrite v (withInbox r s) = withInbox r (luTxWrite v s) := rfl
  unfold dataTx
  rw [hsame, hp]
  generalize poll .txReady true b (luTxWrite v s) = p
  obtain ⟨o, t⟩ := p
  cases o <;> rfl

theorem arrayStore_withInbox (sel : XSel) (i : Nat) (v : Byte) (r : List Input) (s : State) :
    arrayStore sel i v (withInbox r s) = withInbox r (arrayStore sel i v s) := by
  cases sel with
  | buf => simp only [arrayStore, bufStore, apply_ite (withInbox r)]; rfl
  | pay => rfl
  | const b => rfl

theorem dataRx_inboxBlind (last : Bool) (sel : XSel) (i : Nat) (b : Word) : InboxBlind (dataRx last sel i b) := by
  intro r s
  have hp := poll_inboxBlind .rxReady false b r (lastAck last s)
  have hsame : lastAck last (withInbox r s) = withInbox r (lastAck last s) := by cases last <;> rfl
  unfold dataRx
  rw [hsame, hp]
  generalize poll .rxReady false b (lastAck last s) = p
  obtain ⟨o, t⟩ := p
  have hstore := congrArg (Prod.mk Code.ok) (arrayStore_withInbox sel i (nextRx t) r (luRxRead t))
  cases o
  case timeout => rfl
  all_goals exact hstore

theorem dataPhase_inboxBlind (d : Dir) (sel : XSel) (l i : Nat) (b : Word) : InboxBlind (dataPhase d sel l i b) := by
  intro r s
  have hbyte : arrayByte sel (withInbox r s) i = arrayByte sel s i := by cases sel <;> rfl
  cases d with
  | write => simp only [dataPhase, hbyte]; exact dataTx_inboxBlind _ b r s
  | read => exact dataRx_inboxBlind _ sel i b r s

theorem dataLoop_inboxBlind (d : Dir) (sel : XSel) (l : Nat) (b : Word) (n i : Nat) :
    InboxBlind (dataLoop d sel l b n i) := by
  induction n generalizing i with
  | zero => intro r s; rfl
  | succ n ih =>
    exact andThen_inboxBlind (andThen_inboxBlind (dataPhase_inboxBlind d sel l i b) fun _ _ => rfl) (ih (i + 1))

theorem xactPhases_inboxBlind (d : Dir) (a : BusAddr) (l : Byte) (b : Word) (sel : XSel) :
    InboxBlind (xactPhases d a l b sel) :=
  andThen_inboxBlind (waitBusFree_inboxBlind b) <| andThen_inboxBlind (startPhase_inboxBlind d b) <|
    andThen_inboxBlind (addressPhase_inboxBlind a d b) <|
    andThen_inboxBlind (fun r s => dataLoop_inboxBlind d sel l.toNat b l.toNat 0 r { s with estate := .data })
      fun _ _ => rfl

theorem xact_inboxBlind (d : Dir) (a : BusAddr) (l : Byte) (b : Word) (sel : XSel) :
    InboxBlind (xact d a l b sel) := by
  intro r s
  have h := xactPhases_inboxBlind d a l b sel r (latchXact d a l b sel s)
  have hsame : latchXact d a l b sel (withInbox r s) = withInbox r (latchXact d a l b sel s) := rfl
  unfold xact
  rw [hsame, h]
  rfl

theorem clockPulses_withInbox (n k : Nat) (r : List Input) (s : State) :
    clockPulses n k (withInbox r s) = withInbox r (clockPulses n k s) := by
  induction n generalizing k s with
  | zero => rfl
  | succ n ih => exact ih (k + 1) (clockPulse k s)

theorem runForceClear_withInbox (r : List Input) (s : State) :
    runForceClear (withInbox r s) = withInbox r (runForceClear s) := by
  have hsame : takePins (withInbox r s) = withInbox r (takePins s) := rfl
  rw [runForceClear, runForceClear, hsame, clockPulses_withInbox]
  rfl

theorem decodePayload_inboxBlind : InboxBlind decodePayload := by
  intro r s
  cases h : payloadStatus s.pay <;> simp [decodePayload, failMeasure, withInbox, h]

theorem readStage_inboxBlind : InboxBlind readStage := by
  intro r s
  have hx : readXact (withInbox r s) = ((readXact s).1, withInbox r (readXact s).2) :=
    xact_inboxBlind _ _ _ s.opLong _ r s
  unfold readStage
  rw [hx]
  generalize readXact s = x
  obtain ⟨c, t⟩ := x
  cases c
  case ok => exact decodePayload_inboxBlind r t
  all_goals simp only [failMeasure, runForceClear_withInbox]; rfl

theorem runMeasure_inboxBlind : InboxBlind runMeasure := by
  intro r s
  have hx : triggerXact (beginMeasure (withInbox r s)) =
      ((triggerXact (beginMeasure s)).1, withInbox r (triggerXact (beginMeasure s)).2) :=
    xact_inboxBlind _ _ _ s.opShort _ r (beginMeasure s)
  unfold runMeasure
  rw [hx]
  generalize triggerXact (beginMeasure s) = x
  obtain ⟨c, t⟩ := x
  cases c
  case ok => exact readStage_inboxBlind r { dly Config.tConv { t with dstate := .await } with dstate := .reading }
  all_goals rfl

theorem probe_withInbox (a : Nat) (r : List Input) (s : State) :
    probe a (withInbox r s) = withInbox r (probe a s) := by
  have hx : probeXact a (withInbox r s) = ((probeXact a s).1, withInbox r (probeXact a s).2) :=
    xact_inboxBlind _ _ _ s.opShort _ r { s with saddr := BitVec.ofNat 7 a }
  rw [probe_eq, probe_eq, hx]
  cases (probeXact a s).1 <;> rfl

theorem scanLoop_withInbox (n a : Nat) (r : List Input) (s : State) :
    scanLoop n a (withInbox r s) = withInbox r (scanLoop n a s) := by
  induction n generalizing a s with
  | zero => rfl
  | succ n ih => rw [scanLoop, scanLoop, probe_withInbox, ih]

/-- WRITE and READ: the code and the index of one transaction, from the budget latched. -/
theorem dataCommand_inboxBlind (d : Dir) (a : BusAddr) (l : Byte) :
    InboxBlind fun s => let x := xact d a l s.opBudget .buf s; ((⟨x.1, .none, x.2.xidx⟩ : Result), x.2) :=
  fun r s => congrArg (fun x => ((⟨x.1, .none, x.2.xidx⟩ : Result), x.2)) (xact_inboxBlind d a l s.opBudget .buf r s)

theorem operation_inboxBlind (i : Instr) : InboxBlind (operation i) := by
  intro r s
  cases i with
  | write a l => exact dataCommand_inboxBlind .write a l r s
  | read a l => exact dataCommand_inboxBlind .read a l r s
  | forceClear => exact congrArg (Prod.mk okResult) (runForceClear_withInbox r s)
  | measure => exact runMeasure_inboxBlind r s
  | scan =>
    have hsame : clearScan (withInbox r s) = withInbox r (clearScan s) := rfl
    simp only [operation, runScan]
    rw [hsame, scanLoop_withInbox]
  | reinit => rfl

/-! ### Everything a step can do -/

/-- What the HOST's accesses change while they issue no command: the inputs to come, its record and the counter of free
values, CMD_OVR, the budgets and BUF, which stays canonical. -/
inductive HostMove (s : State) : State → Prop
  | mk (inbox : List Input) (reads : List (Offset × Word)) (draws : Nat) (cmdOvr : Bool) (tbudget tbShort tbLong : Word)
      (buf : Memory) (hwf : Memory.wf s.buf = true → Memory.wf buf = true) :
    HostMove s
      { s with
        inbox := inbox, reads := reads, draws := draws, cmdOvr := cmdOvr, tbudget := tbudget, tbShort := tbShort,
        tbLong := tbLong, buf := buf }

theorem HostMove.withInbox (r : List Input) (s : State) : HostMove s (withInbox r s) := .mk _ _ _ _ _ _ _ _ id

theorem HostMove.overrun (s : State) : HostMove s (overrun s) := .mk _ _ _ _ _ _ _ _ id

theorem HostMove.hostRead (off : Offset) (s : State) : HostMove s (hostRead off s) := .mk _ _ _ _ _ _ _ _ id

theorem HostMove.hostWrite (off : Offset) (v : Word) (s : State) : HostMove s (hostWrite off v s) := by
  obtain h | ⟨i, h⟩ := hostWrite_frame off v s <;> rw [h]
  · exact .mk _ _ _ _ _ _ _ _ id
  · rw [bufStore_frame]
    exact .mk _ _ _ _ _ _ _ _ (wf_bufStore i _ s)

/-- The state in which a command has just been accepted from `s` (R197). -/
def acceptedState (i : Instr) (s : State) : State :=
  goTo (.accepted i) (onAccept i (acceptCommand i (takeWord (encode i) s)))

section Keeps

variable {P : State → Prop}
  (host : ∀ s t, HostMove s t → P s → P t)
  (reset : ∀ s, P (resetBlock s))
  (refuse : ∀ w s, s.busy = false → P s → P (refuseWord (takeWord w s)))
  (accept : ∀ i s, s.busy = false → operandsLegal i s = true → P s → P (acceptedState i s))
  (core : ∀ s t, s.busy = true → coreStep s = .next t → P s → P t)

include core in
theorem reaches_keeps {s t : State} (h : Reaches s t) (hs : P s) : P t := by
  induction h using Relation.ReflTransGen.head_induction_on with
  | refl => exact hs
  | head hmove _ ih =>
    obtain ⟨⟨hbusy, -⟩, hstep⟩ := hmove
    exact ih (core _ _ hbusy hstep hs)

include core in
theorem coreTurn_keeps {s t : State} (h : coreTurn s = .next t) (hs : P s) : P t := by
  unfold coreTurn at h
  split at h
  · exact core s t ‹_› h hs
  · injection h with h
    exact h ▸ hs

include host accept core

/-- A command that runs whole: it ends where the CORE's moves from its accepted state end. -/
theorem run_keeps (i : Instr) (s : State) (hb : s.busy = false) (ho : operandsLegal i s = true) (hs : P s) :
    P (finish (operation i (acceptCommand i (takeWord (encode i) s)))) := by
  have hlegal : operandsLegal i (withInbox [] s) = true := by rw [← ho]; cases i <;> rfl
  have hstart := accept i (withInbox [] s) hb hlegal (host _ _ (.withInbox [] s) hs)
  have hend := reaches_keeps core (accepted_reaches i hlegal rfl) hstart
  have hsame : acceptCommand i (takeWord (encode i) (withInbox [] s)) =
      withInbox [] (acceptCommand i (takeWord (encode i) s)) := by cases i <;> rfl
  rw [hsame, operation_inboxBlind] at hend
  generalize operation i (acceptCommand i (takeWord (encode i) s)) = out at hend
  exact host _ _ (.withInbox out.2.inbox _) hend

include refuse

theorem exec_keeps {i : Instr} {s t : State} (h : exec i s = .next t) (hs : P s) : P t := by
  rw [exec_eq_command] at h
  obtain ⟨-, rfl⟩ | ⟨hb, -, rfl⟩ | ⟨hb, ho, -, rfl⟩ | ⟨hb, ho, -, rfl⟩ := command_cases h
  · exact host _ _ (.overrun s) hs
  · exact refuse _ s hb hs
  · exact run_keeps host accept core i s hb ho hs
  · exact accept i s hb ho hs

theorem cmdWrite_keeps {w : Word} {s t : State} (h : cmdWrite w s = .next t) (hs : P s) : P t := by
  unfold cmdWrite at h
  split at h
  · exact exec_keeps host refuse accept core h hs
  · injection h with h
    subst h
    unfold cmdIllegal
    split
    · exact host _ _ (.overrun s) hs
    · exact refuse w s (by simpa using ‹¬ s.busy = true›) hs

theorem hwr_keeps {off : Offset} {v : Word} {s t : State} (h : hwr off v s = .next t) (hs : P s) : P t := by
  unfold hwr at h
  split at h
  · split at h
    · exact cmdWrite_keeps host refuse accept core h hs
    · injection h with h
      exact h ▸ host _ _ (.hostWrite off v s) hs
  · cases h

include reset

theorem input_keeps {x : Input} {rest : List Input} {s t : State} (h : input x rest s = .next t) (hs : P s) : P t := by
  have hrest : P (withInbox rest s) := host _ _ (.withInbox rest s) hs
  cases x with
  | hrd off =>
    simp only [input, hrd] at h
    split at h
    · injection h with h
      exact h ▸ host _ _ (.hostRead off (withInbox rest s)) hrest
    · cases h
  | hwr off v => exact hwr_keeps host refuse accept core h hrest
  | wait =>
    simp only [input] at h
    split at h
    · exact core s t ‹_› h hs
    · injection h with h
      exact h ▸ host _ _ (.hostRead offStatus (withInbox rest s)) hrest
  | yield => exact coreTurn_keeps core h hrest
  | rst =>
    injection h with h
    exact h ▸ reset _

/-- A predicate that accesses, a reset, a refused word, the accept of a command and every step of the CORE keep is kept
by every step of the machine. -/
theorem step_keeps {s t : State} (h : step s = .next t) (hs : P s) : P t := by
  cases hi : s.inbox with
  | nil => rw [step_nil s hi] at h; exact coreTurn_keeps core h hs
  | cons x rest => rw [step_cons s x rest hi] at h; exact input_keeps host reset refuse accept core h hs

end Keeps

end Sys2Proof.Proofs
end

section
/-! ## Proofs: every step of the CORE, once

`CoreStep s t` lists what a step of the CORE can be: a move inside a transaction (`XactMove`), the end of a transaction
(`XactEnd`) and what its caller does with the code (`AfterXact`), or one of the few moves outside transactions. An
invariant of the block's state is shown kept by a case split on these. -/

open Sys2Proof Sys2Proof.Machine Sys2Proof.Safety

namespace Sys2Proof.Proofs

/-! ### Inside a transaction -/

/-- The values ESTATE can have at a position inside a transaction (R47). -/
def phases : Upc → List EState
  | .wfSmp _ => [.waitFree]
  | .wfStop => [.waitFree]
  | .wfDly => [.waitFree]
  | .wfRecheck _ => [.waitFree]
  | .stAck => [.start]
  | .stStart => [.start]
  | .stSmp _ => [.start]
  | .adTx => [.addr]
  | .adSmp _ => [.addr]
  | .txByte => [.data]
  | .txSmp _ => [.data]
  | .rxAck => [.data]
  | .rxSmp _ => [.data]
  | .rxByte _ => [.data]
  | .spStop => [.stop]
  | .spDly => [.stop]
  | .nkClear => [.addr, .data]
  | .nkStop => [.addr, .data]
  | .nkDly => [.addr, .data]
  | _ => []

/-- ESTATE names the phase of the transaction the CORE is in. -/
def InPhase (s : State) : Prop := s.estate ∈ phases s.upc

/-- The transaction's budget is not 0 and its index has not passed its length. -/
def IndexInRange (s : State) : Prop := s.xb ≠ 0#32 ∧ s.xidx.toNat ≤ s.xlen.toNat

/-- No counter of the transaction wraps at the CORE's position in it. -/
structure XactCounters (s : State) : Prop where
  range : IndexInRange s
  byte  : inByte s.upc = true → s.xidx.toNat < s.xlen.toNat
  poll  : polling s.upc = true → s.cnt ≠ 0#32

/-- The transaction in progress goes on from `s` to `t`. If `phase` holds before the step, ESTATE names the phase after
it; if `counted` holds, no counter wraps after it. -/
structure XactMove (phase counted : Prop) (s t : State) : Prop where
  position : inXact t.upc = true
  frame    : EngineFrame (goTo t.upc s) t
  phase    : phase → InPhase t
  counters : counted → XactCounters t

theorem cnt_engine (n : Word) (s : State) : EngineFrame s { s with cnt := n } := { EngineFrame.refl s with }

theorem goTo_engine {s t : State} (u : Upc) (h : EngineFrame s t) : EngineFrame (goTo u s) (goTo u t) :=
  { h with upc := rfl }

section Moves

variable {phase counted : Prop} {s t : State}

/-- What the CORE assigns before its next primitive, outside the latches. -/
theorem XactMove.prepend {phase' counted' : Prop} {s' : State} (hp : phase' → phase) (hc : counted' → counted)
    (h : EngineFrame s s') (m : XactMove phase counted s' t) : XactMove phase' counted' s t where
  position := m.position
  frame := (goTo_engine t.upc h).trans m.frame
  phase := fun x => m.phase (hp x)
  counters := fun x => m.counters (hc x)

/-- The position `u` keeps what a sample of a poll decided. -/
structure PollPosition (u : Option PollResult → Upc) : Prop where
  inXact  : ∀ o, inXact (u o) = true
  phases  : ∀ o o', phases (u o) = phases (u o')
  inByte  : ∀ o o', inByte (u o) = inByte (u o')
  polling : ∀ o, polling (u o) = true

theorem pollPosition_wfSmp : PollPosition .wfSmp := ⟨fun _ => rfl, fun _ _ => rfl, fun _ _ => rfl, fun _ => rfl⟩
theorem pollPosition_stSmp : PollPosition .stSmp := ⟨fun _ => rfl, fun _ _ => rfl, fun _ _ => rfl, fun _ => rfl⟩
theorem pollPosition_adSmp : PollPosition .adSmp := ⟨fun _ => rfl, fun _ _ => rfl, fun _ _ => rfl, fun _ => rfl⟩
theorem pollPosition_txSmp : PollPosition .txSmp := ⟨fun _ => rfl, fun _ _ => rfl, fun _ _ => rfl, fun _ => rfl⟩
theorem pollPosition_rxSmp : PollPosition .rxSmp := ⟨fun _ => rfl, fun _ _ => rfl, fun _ _ => rfl, fun _ => rfl⟩

variable {u : Option PollResult → Upc} {o : Option PollResult}

/-- A sample of a poll, from a position of the same poll or from the one before it. -/
theorem pollSample_move (hu : PollPosition u) (c : PollCond) (watch : Bool) (s : State) :
    XactMove (s.estate ∈ phases (u none))
      (IndexInRange s ∧ (inByte (u none) = true → s.xidx.toNat < s.xlen.toNat) ∧ s.cnt ≠ 0#32) s
      (pollSample c watch u s) where
  position := hu.inXact _
  frame := goTo_engine _ (luSample_engine s)
  phase := fun h => (hu.phases none (sampleOutcome c watch s) ▸ h : s.estate ∈ phases (u _))
  counters := fun ⟨hr, hb, hc⟩ =>
    ⟨hr, fun h => hb ((hu.inByte none (sampleOutcome c watch s)).trans h), fun _ => hc⟩

theorem beginPoll_move (hu : PollPosition u) (c : PollCond) (watch : Bool) (s : State) :
    XactMove (s.estate ∈ phases (u none))
      (IndexInRange s ∧ (inByte (u none) = true → s.xidx.toNat < s.xlen.toNat)) s (beginPoll c watch u s) :=
  (pollSample_move hu c watch { s with cnt := s.xb }).prepend id (fun ⟨hr, hb⟩ => ⟨hr, hb, hr.1⟩) (cnt_engine s.xb s)

theorem toStart_move (s : State) : XactMove True (IndexInRange s) s (toStart s) := by
  obtain ⟨-, h⟩ | ⟨-, h⟩ := toStart_cases s <;> rw [h]
  · exact ⟨rfl, goTo_engine _ ((emit_engine .start s).trans (estate_engine .start _)), fun _ => .head _,
      fun hr => ⟨hr, nofun, nofun⟩⟩
  · exact ⟨rfl, goTo_engine _ ((luSetAck_engine true s).trans (estate_engine .start _)), fun _ => .head _,
      fun hr => ⟨hr, nofun, nofun⟩⟩

theorem toAddress_move (s : State) : XactMove True (IndexInRange s) s (toAddress s) where
  position := rfl
  frame := goTo_engine _ ((estate_engine .addr s).trans (emit_engine _ _))
  phase := fun _ => .head _
  counters := fun hr => ⟨hr, nofun, nofun⟩

theorem toData_move (s : State) : XactMove (s.estate = .data) (IndexInRange s) s (toData s) := by
  obtain ⟨hl, -, h⟩ | ⟨hl, -, h⟩ | ⟨hl, -, h⟩ | ⟨-, h⟩ := toData_cases s <;> rw [h]
  · exact ⟨rfl, goTo_engine _ (emit_engine _ s), List.mem_singleton.mpr, fun hr => ⟨hr, fun _ => hl, nofun⟩⟩
  · exact ⟨rfl, goTo_engine _ (luSetAck_engine false s), List.mem_singleton.mpr,
      fun hr => ⟨hr, fun _ => (by omega : s.xidx.toNat < s.xlen.toNat), nofun⟩⟩
  · exact (beginPoll_move pollPosition_rxSmp _ _ s).prepend List.mem_singleton.mpr
      (fun hr => ⟨hr, fun _ => by omega⟩) (.refl s)
  · exact ⟨rfl, goTo_engine _ ((emit_engine .stop s).trans (estate_engine .stop _)), fun _ => .head _,
      fun hr => ⟨hr, nofun, nofun⟩⟩

theorem byteDone_move (s : State) :
    XactMove (s.estate = .data) (s.xb ≠ 0#32 ∧ s.xidx.toNat < s.xlen.toNat) s (byteDone s) := by
  refine (toData_move (setXidx (s.xidx.toNat + 1) s)).prepend id (fun ⟨hb, hl⟩ => ⟨hb, ?_⟩) (setXidx_engine _ s)
  have := s.xlen.isLt
  simp; omega

theorem toRxRead_move (s : State) :
    XactMove (s.estate = .data) (IndexInRange s ∧ s.xidx.toNat < s.xlen.toNat) s (toRxRead s) where
  position := rfl
  frame := goTo_engine _ (luRxRead_engine s)
  phase := List.mem_singleton.mpr
  counters := fun ⟨hr, hl⟩ => ⟨hr, fun _ => hl, nofun⟩

theorem toNackExit_move (s : State) :
    XactMove (s.estate = .addr ∨ s.estate = .data) (IndexInRange s) s (toNackExit s) where
  position := rfl
  frame := goTo_engine _ (emit_engine _ s)
  phase := by simp [InPhase, phases, toNackExit, goTo]
  counters := fun hr => ⟨hr, nofun, nofun⟩

end Moves

/-- A transaction ends with code `c` in the state `v`: after a success ESTATE is E_DONE, after a failure E_FAILED. -/
structure XactEnd (s : State) (c : Code) (v : State) : Prop where
  position : inXact s.upc = true
  frame    : EngineFrame s v
  estate   : v.estate = if c = .ok then .done else .failed

/-- What the caller of a transaction that returned `c` does next (R171, R190, R201). -/
inductive AfterXact (c : Code) (v : State) : State → Prop
  | triggered (h4 : v.opcur = 4#4) (hd : v.dstate = .triggered) (hc : c = .ok) :
    AfterXact c v (goTo .convDly (dly Config.tConv { v with xcode := c, dstate := .await }))
  | triggerFailed (h4 : v.opcur = 4#4) (hd : v.dstate = .triggered) (hc : c ≠ .ok) :
    AfterXact c v (complete ⟨c, .trigger, 0#8⟩ { v with xcode := c, dstate := .failed })
  | received (h4 : v.opcur = 4#4) (hd : v.dstate ≠ .triggered) (hc : c = .ok) :
    AfterXact c v (finish (decodePayload { v with xcode := c }))
  | readFailed (h4 : v.opcur = 4#4) (hd : v.dstate ≠ .triggered) (hc : c ≠ .ok) :
    AfterXact c v (toForceClear { v with xcode := c })
  | probed (h5 : v.opcur = 5#4) (ha : v.saddr.toNat < Config.addrMax) :
    AfterXact c v (startProbe (v.saddr + 1#7) (notePresent c { v with xcode := c }))
  | scanned (h5 : v.opcur = 5#4) (ha : Config.addrMax ≤ v.saddr.toNat) :
    AfterXact c v (complete okResult (notePresent c { v with xcode := c }))
  | answered (h4 : v.opcur ≠ 4#4) (h5 : v.opcur ≠ 5#4) :
    AfterXact c v (complete ⟨c, .none, v.xidx⟩ { v with xcode := c })

theorem xactDone_afterXact (c : Code) (v : State) : AfterXact c v (xactDone c v) := by
  obtain ⟨h4, hd, h⟩ | ⟨h4, hd, h⟩ | ⟨h5, h⟩ | ⟨h4, h5, h⟩ := xactDone_cases c v <;> rw [h]
  · cases c
    case ok => exact .triggered h4 hd rfl
    all_goals exact .triggerFailed h4 hd nofun
  · cases c
    case ok => exact .received h4 hd rfl
    all_goals exact .readFailed h4 hd nofun
  · have hsaddr : (notePresent c { v with xcode := c }).saddr = v.saddr := by cases c <;> rfl
    rw [afterProbe, hsaddr]
    split
    · exact .probed h5 ‹_›
    · exact .scanned h5 (by omega)
  · exact .answered h4 h5

/-- Every step of the CORE, in as much detail as the invariants of its registers look at: of a move inside a transaction
what `XactMove` says, of the moves inside a pulse (`edge`) that they touch SCL_O and TRACE only. -/
inductive CoreStep (s : State) : State → Prop
  | first (i : Instr) (hu : s.upc = .accepted i) : CoreStep s (firstPrimitive i s)
  | moves (t : State) (hx : inXact s.upc = true) (h : XactMove (InPhase s) (XactCounters s) s t) : CoreStep s t
  | ends (c : Code) (v t : State) (h : XactEnd s c v) (ha : AfterXact c v t) : CoreStep s t
  | pulses (hu : s.upc = .fcDrive) : CoreStep s (toPulse 1 { s with rstate := .pulse })
  | edge (u : Upc) (sclO : Bool) (e : Event) (hs : pulsing s.upc = true) (hu : pulsing u = true) :
    CoreStep s (goTo u (emit e { s with sclO := sclO }))
  | nextPulse (hu : s.upc = .fcHighDly) (hp : s.pulse.toNat < Config.nPulses) :
    CoreStep s (toPulse (s.pulse.toNat + 1) s)
  | settles (hu : s.upc = .fcHighDly) (hp : Config.nPulses ≤ s.pulse.toNat) : CoreStep s (toSettle s)
  | recovers (hu : s.upc = .fcSettle) (h4 : s.opcur = 4#4) :
    CoreStep s (goTo .recoverDly (dly Config.tRecoverSettle { s with rstate := .idle }))
  | cleared (hu : s.upc = .fcSettle) (h4 : s.opcur ≠ 4#4) :
    CoreStep s (complete okResult { s with rstate := .idle })
  | converted (hu : s.upc = .convDly) :
    CoreStep s (startXact .read Config.sensorAddr Config.payloadLen s.opLong .pay { s with dstate := .reading })
  | recovered (hu : s.upc = .recoverDly) : CoreStep s (complete ⟨s.xcode, .read, 0#8⟩ { s with dstate := .failed })
  | released (hu : s.upc = .riRelease) : CoreStep s (goTo .riReinit (luReinit s))
  | reinited (hu : s.upc = .riReinit) :
    CoreStep s (complete okResult { s with desync := false, estate := .idle })

theorem coreStep_ends {s v : State} {c : Code} (h : XactEnd s c v) : CoreStep s (xactDone c v) :=
  .ends c v _ h (xactDone_afterXact c v)

theorem plainExit_ends {s v : State} {c : Code} (hx : inXact s.upc = true) (h : EngineFrame s v) (hc : c ≠ .ok) :
    CoreStep s (plainExit c v) :=
  coreStep_ends ⟨hx, h.trans (estate_engine .failed v), by simp [failPlain, hc]⟩

/-- A poll goes on, or the CORE takes what follows the poll. -/
theorem afterSample_coreStep {s : State} {u : Option PollResult → Upc} {o : Option PollResult} {c : PollCond}
    {watch : Bool} {ready nack timeout : State → State} (hupc : s.upc = u o) (hu : PollPosition u)
    (hready : CoreStep s (ready s)) (hnack : CoreStep s (nack s))
    (htimeout : ∀ cnt, CoreStep s (timeout { s with cnt := cnt })) :
    CoreStep s (afterSample c watch u o ready nack timeout s) := by
  have hx : inXact s.upc = true := hupc ▸ hu.inXact o
  obtain ⟨-, h⟩ | ⟨-, h⟩ | ⟨-, h⟩ | ⟨-, -, h⟩ | ⟨-, hc, h⟩ := afterSample_cases c watch u o ready nack timeout s
    <;> rw [h]
  · exact hready
  · exact hnack
  · exact htimeout s.cnt
  · exact htimeout (s.cnt - 1)
  · refine .moves _ hx ((pollSample_move hu c watch (countDown s)).prepend (fun h => ?_) (fun h => ?_)
      (countDown_engine s))
    · rw [hu.phases none o, ← hupc]; exact h
    · exact ⟨h.range, fun hb => h.byte (hupc ▸ hu.inByte o none ▸ hb), hc⟩

/-- A primitive that leaves ESTATE, XIDX and CNT alone, within its phase. -/
theorem primitive_coreStep {s v : State} {u : Upc} (f : EngineFrame s v) (he : v.estate = s.estate)
    (hi : v.xidx = s.xidx) (hx : inXact s.upc = true) (hu : inXact u = true) (hp : phases u = phases s.upc)
    (hb : inByte u = false) (hs : polling u = false) : CoreStep s (goTo u v) :=
  .moves _ hx
    { position := hu
      frame := goTo_engine u f
      phase := fun h => (he ▸ hp ▸ h : v.estate ∈ phases u)
      counters := fun h =>
        ⟨⟨f.xb ▸ h.range.1, hi ▸ f.xlen ▸ h.range.2⟩, fun hb' => absurd (hb.symm.trans hb') (by decide),
          fun hs' => absurd (hs.symm.trans hs') (by decide)⟩ }

/-- A poll begins within its phase. -/
theorem beginPoll_coreStep {s : State} {u : Option PollResult → Upc} (hu : PollPosition u) (c : PollCond) (watch : Bool)
    (hx : inXact s.upc = true) (hp : phases (u none) = phases s.upc) (hb : inByte (u none) = inByte s.upc) :
    CoreStep s (beginPoll c watch u s) :=
  .moves _ hx ((beginPoll_move hu c watch s).prepend (fun h => hp ▸ h) (fun h => ⟨h.range, fun hn => h.byte (hb ▸ hn)⟩)
    (.refl s))

theorem arrayStore_keeps (sel : XSel) (i : Nat) (v : Byte) (s : State) :
    (arrayStore sel i v s).estate = s.estate ∧ (arrayStore sel i v s).xidx = s.xidx := by
  rw [arrayStore_frame]
  exact ⟨rfl, rfl⟩

/-- A byte is complete: only from a position of the data loop. -/
theorem byteDone_coreStep {s v : State} (f : EngineFrame s v) (he : v.estate = s.estate) (hi : v.xidx = s.xidx)
    (hx : inXact s.upc = true) (hb : inByte s.upc = true) (hp : phases s.upc = [.data]) : CoreStep s (byteDone v) := by
  refine .moves _ hx ((byteDone_move v).prepend (fun h => ?_) (fun h => ?_) f)
  · rw [InPhase, hp] at h
    exact he.trans (List.mem_singleton.mp h)
  · rw [f.xb, f.xlen, hi]
    exact ⟨h.range.1, h.byte hb⟩

/-- Each step of the CORE is one of those `CoreStep` lists: the cases stand in the order of the positions. -/
theorem coreStep_cases {s t : State} (h : coreStep s = .next t) : CoreStep s t := by
  unfold coreStep at h
  split at h <;> cases h
  next i hu => exact .first i hu
  next o hu =>
    have hx : inXact s.upc = true := hu ▸ rfl
    have hstart : CoreStep s (toStart s) :=
      .moves _ hx ((toStart_move s).prepend (fun _ => trivial) XactCounters.range (.refl s))
    refine afterSample_coreStep hu pollPosition_wfSmp hstart hstart fun cnt => ?_
    exact primitive_coreStep ((cnt_engine cnt s).trans (emit_engine .stop _)) rfl rfl hx rfl (hu ▸ rfl) rfl rfl
  next hu => exact primitive_coreStep (emit_engine _ s) rfl rfl (hu ▸ rfl) rfl (hu ▸ rfl) rfl rfl
  next hu => exact primitive_coreStep (luSample_engine s) rfl rfl (hu ▸ rfl) rfl (hu ▸ rfl) rfl rfl
  next busy hu =>
    have hx : inXact s.upc = true := hu ▸ rfl
    cases busy with
    | true => exact plainExit_ends hx (.refl s) nofun
    | false => exact .moves _ hx ((toStart_move s).prepend (fun _ => trivial) XactCounters.range (.refl s))
  next hu => exact primitive_coreStep (emit_engine .start s) rfl rfl (hu ▸ rfl) rfl (hu ▸ rfl) rfl rfl
  next hu => exact beginPoll_coreStep pollPosition_stSmp _ _ (hu ▸ rfl) (hu ▸ rfl) (hu ▸ rfl)
  next o hu =>
    have hx : inXact s.upc = true := hu ▸ rfl
    have haddress : CoreStep s (toAddress s) :=
      .moves _ hx ((toAddress_move s).prepend (fun _ => trivial) XactCounters.range (.refl s))
    exact afterSample_coreStep hu pollPosition_stSmp haddress haddress fun cnt =>
      plainExit_ends hx (cnt_engine cnt s) nofun
  next hu => exact beginPoll_coreStep pollPosition_adSmp _ _ (hu ▸ rfl) (hu ▸ rfl) (hu ▸ rfl)
  next o hu =>
    have hx : inXact s.upc = true := hu ▸ rfl
    refine afterSample_coreStep hu pollPosition_adSmp ?_ ?_ fun cnt => plainExit_ends hx (cnt_engine cnt s) nofun
    · exact .moves _ hx ((toData_move { s with estate := .data }).prepend (fun _ => rfl) XactCounters.range
        (estate_engine .data s))
    · refine .moves _ hx ((toNackExit_move s).prepend (fun h => .inl ?_) XactCounters.range (.refl s))
      rw [InPhase, hu] at h
      exact List.mem_singleton.mp h
  next hu => exact beginPoll_coreStep pollPosition_txSmp _ _ (hu ▸ rfl) (hu ▸ rfl) (hu ▸ rfl)
  next o hu =>
    have hx : inXact s.upc = true := hu ▸ rfl
    refine afterSample_coreStep hu pollPosition_txSmp ?_ ?_ fun cnt => plainExit_ends hx (cnt_engine cnt s) nofun
    · exact byteDone_coreStep (.refl s) rfl rfl hx (hu ▸ rfl) (hu ▸ rfl)
    · refine .moves _ hx ((toNackExit_move s).prepend (fun h => .inr ?_) XactCounters.range (.refl s))
      rw [InPhase, hu] at h
      exact List.mem_singleton.mp h
  next hu => exact beginPoll_coreStep pollPosition_rxSmp _ _ (hu ▸ rfl) (hu ▸ rfl) (hu ▸ rfl)
  next o hu =>
    have hx : inXact s.upc = true := hu ▸ rfl
    have hread : CoreStep s (toRxRead s) := by
      refine .moves _ hx ((toRxRead_move s).prepend (fun h => ?_) (fun h => ⟨h.range, h.byte (hu ▸ rfl)⟩) (.refl s))
      rw [InPhase, hu] at h
      exact List.mem_singleton.mp h
    exact afterSample_coreStep hu pollPosition_rxSmp hread hread fun cnt => plainExit_ends hx (cnt_engine cnt s) nofun
  next b hu =>
    obtain ⟨he, hi⟩ := arrayStore_keeps s.xsel s.xidx.toNat b s
    exact byteDone_coreStep (arrayStore_engine _ _ b s) he hi (hu ▸ rfl) (hu ▸ rfl) (hu ▸ rfl)
  next hu => exact primitive_coreStep (emit_engine _ s) rfl rfl (hu ▸ rfl) rfl (hu ▸ rfl) rfl rfl
  next hu => exact coreStep_ends ⟨hu ▸ rfl, estate_engine .done s, rfl⟩
  next hu => exact primitive_coreStep (emit_engine .stop s) rfl rfl (hu ▸ rfl) rfl (hu ▸ rfl) rfl rfl
  next hu => exact primitive_coreStep (emit_engine _ s) rfl rfl (hu ▸ rfl) rfl (hu ▸ rfl) rfl rfl
  next hu =>
    refine coreStep_ends ⟨hu ▸ rfl, estate_engine .failed s, ?_⟩
    unfold nackCode
    split <;> rfl
  next hu => exact .pulses hu
  next hu => exact .edge .fcLowDly s.sclO (.dly Config.tEdge) (hu ▸ rfl) rfl
  next hu => exact .edge .fcHigh true (.scl true) (hu ▸ rfl) rfl
  next hu => exact .edge .fcHighDly s.sclO (.dly Config.tEdge) (hu ▸ rfl) rfl
  next hu =>
    obtain ⟨hp, h⟩ | ⟨hp, h⟩ := pulseDone_cases s <;> rw [h]
    · exact .nextPulse hu hp
    · exact .settles hu hp
  next hu =>
    unfold recoveryDone
    split
    · exact .recovers hu ‹_›
    · exact .cleared hu ‹_›
  next hu => exact .converted hu
  next hu => exact .recovered hu
  next hu => exact .released hu
  next hu => exact .reinited hu

/-! ### Invariants of states with a consistent position -/

theorem acceptedState_opcur (i : Instr) (s : State) : (acceptedState i s).opcur = opField (encode i) := by
  simp [acceptedState, goTo, takeWord]

theorem positionInv_acceptedState (i : Instr) (s : State) : PositionInv (acceptedState i s) := by
  have hbusy : (acceptedState i s).busy = true := by simp [acceptedState, goTo]
  refine ⟨iff_of_true hbusy nofun, fun j hj => ?_⟩
  obtain rfl : i = j := by simpa [acceptedState, goTo] using hj
  exact ⟨by simp [acceptedState, goTo, takeWord], acceptedState_opcur i s⟩

/-- `step_keeps` for states with a consistent position, the CORE's steps as `CoreStep` lists them. -/
theorem step_keeps_of_positionInv {P : State → Prop} (host : ∀ s t, HostMove s t → P s → P t)
    (reset : ∀ s, P (resetBlock s))
    (refuse : ∀ w s, s.busy = false → s.upc = .idle → P s → P (refuseWord (takeWord w s)))
    (accept : ∀ i s, s.busy = false → s.upc = .idle → operandsLegal i s = true → P s → P (acceptedState i s))
    (core : ∀ s t, s.busy = true → PositionInv s → CoreStep s t → P s → P t) {s t : State} (h : step s = .next t)
    (hp : PositionInv s) (hs : P s) : P t := by
  refine (step_keeps (P := fun s => PositionInv s ∧ P s) ?host ?reset ?refuse ?accept ?core h ⟨hp, hs⟩).2
  case host =>
    rintro s t hm ⟨hp, hs⟩
    refine ⟨?_, host s t hm hs⟩
    cases hm
    exact hp
  case reset => exact fun s => ⟨positionInv_idle rfl rfl, reset s⟩
  case refuse =>
    rintro w s hb ⟨hp, hs⟩
    exact ⟨positionInv_refuseWord hp hb w, refuse w s hb (upc_idle_of_positionInv hp hb) hs⟩
  case accept =>
    rintro i s hb ho ⟨hp, hs⟩
    exact ⟨positionInv_acceptedState i s, accept i s hb (upc_idle_of_positionInv hp hb) ho hs⟩
  case core =>
    rintro s t hb h ⟨hp, hs⟩
    exact ⟨positionInv_of_primitive hb (primitive_of_coreStep h), core s t hb hp (coreStep_cases h) hs⟩

end Sys2Proof.Proofs
end

section
/-! ## Proofs: the invariants of the pins, of the reading and of the scan file (R28, R33, R39) -/

open Sys2Proof Sys2Proof.Machine Sys2Proof.Safety

namespace Sys2Proof.Proofs

/-! ### The pins (R55, R56) -/

theorem pinsInv_outsideReinit {s : State} (hp : s.pinOvr = true → s.desync = true) (hu : s.upc ≠ .riRelease)
    (hu' : s.upc ≠ .riReinit) : PinsInv s :=
  ⟨hp, fun h => (h.elim hu hu').elim⟩

theorem ne_of_inXact {u u' : Upc} (h : inXact u = true) (h' : inXact u' = false) : u ≠ u' := by
  rintro rfl
  exact absurd (h.symm.trans h') (by decide)

theorem decodePayload_keepsPins (s : State) :
    (decodePayload s).2.pinOvr = s.pinOvr ∧ (decodePayload s).2.desync = s.desync := by
  obtain ⟨-, -, h⟩ | ⟨-, -, h⟩ := decodePayload_cases s <;> rw [h] <;> exact ⟨rfl, rfl⟩

theorem afterXact_keepsPins {c : Code} {v t : State} (h : AfterXact c v t) (hp : v.pinOvr = true → v.desync = true) :
    PinsInv t := by
  cases h with
  | triggered => exact pinsInv_outsideReinit hp nofun nofun
  | triggerFailed => exact pinsInv_outsideReinit hp nofun nofun
  | received =>
    obtain ⟨hpin, hdes⟩ := decodePayload_keepsPins { v with xcode := c }
    exact pinsInv_outsideReinit (fun h => hdes.trans (hp (hpin.symm.trans h))) nofun nofun
  | readFailed => exact pinsInv_outsideReinit (fun _ => rfl) nofun nofun
  | probed =>
    obtain ⟨present, count, h⟩ := notePresent_frame c { v with xcode := c }
    rw [h]
    exact pinsInv_outsideReinit hp nofun nofun
  | scanned =>
    obtain ⟨present, count, h⟩ := notePresent_frame c { v with xcode := c }
    rw [h]
    exact pinsInv_outsideReinit hp nofun nofun
  | answered => exact pinsInv_outsideReinit hp nofun nofun

/-- `ForceClear()` alone takes the pins, and it sets DESYNC; REINIT alone clears DESYNC, and it released the pins. -/
theorem coreStep_keepsPins {s t : State} (h : CoreStep s t) (hs : PinsInv s) : PinsInv t := by
  obtain ⟨hp, hr⟩ := hs
  cases h with
  | first i hu =>
    cases i with
    | forceClear => exact pinsInv_outsideReinit (fun _ => rfl) nofun nofun
    | reinit => exact ⟨nofun, fun _ => rfl⟩
    | _ => exact pinsInv_outsideReinit hp nofun nofun
  | moves t hx h =>
    refine pinsInv_outsideReinit ?_ (ne_of_inXact h.position rfl) (ne_of_inXact h.position rfl)
    rw [h.frame.pinOvr, h.frame.desync]
    exact hp
  | ends c v t h ha => exact afterXact_keepsPins ha (by rw [h.frame.pinOvr, h.frame.desync]; exact hp)
  | edge u sclO e hs hu =>
    have hu' : u ≠ .riRelease ∧ u ≠ .riReinit := by constructor <;> rintro rfl <;> cases hu
    exact pinsInv_outsideReinit hp hu'.1 hu'.2
  | released hu => exact ⟨hp, fun _ => hr (.inl hu)⟩
  | reinited hu =>
    have hfree : s.pinOvr = false := hr (.inr hu)
    exact ⟨fun h => absurd (hfree.symm.trans h) (by decide), nofun⟩
  | pulses | nextPulse | settles | recovers | cleared | converted | recovered =>
    exact pinsInv_outsideReinit hp nofun nofun

/-- Settles O49: besides the CORE, which takes the pins with DESYNC set and releases them before it clears DESYNC, only
a reset touches either flag. -/
theorem pinsTakenMeansDesynchronised : Obligations.PinsTakenMeansDesynchronised := by
  intro s t hs h
  refine step_keeps (P := PinsInv) ?host ?reset ?refuse ?accept ?core h hs
  case host => rintro s _ ⟨⟩ hs; exact hs
  case reset => exact fun s => ⟨nofun, nofun⟩
  case refuse => exact fun w s _ hs => hs
  case accept =>
    intro i s _ _ hs
    cases i <;> exact pinsInv_outsideReinit hs.1 nofun nofun
  case core => exact fun s t _ h hs => coreStep_keepsPins (coreStep_cases h) hs

/-! ### The reading (R25, R33) -/

/-- `t` shows the reading `s` shows. -/
structure SameReading (s t : State) : Prop where
  rdValid    : t.rdValid = s.rdValid
  statusCode : t.statusCode = s.statusCode
  humRaw     : t.humRaw = s.humRaw
  tempRaw    : t.tempRaw = s.tempRaw
  humPct     : t.humPct = s.humPct
  tempC      : t.tempC = s.tempC

theorem SameReading.inv {s t : State} (h : SameReading s t) (hs : ReadingInv s) : ReadingInv t := by
  unfold ReadingInv at hs ⊢
  rwa [h.rdValid, h.statusCode, h.humRaw, h.tempRaw, h.humPct, h.tempC]

theorem sameReading_engine {s t : State} (h : EngineFrame s t) : SameReading s t :=
  ⟨h.rdValid, h.statusCode, h.humRaw, h.tempRaw, h.humPct, h.tempC⟩

/-- The decode of a payload shows a coherent reading, or leaves the one it finds (R171). -/
theorem decodePayload_keepsReading (s : State) (hs : ReadingInv s) : ReadingInv (decodePayload s).2 := by
  obtain ⟨-, -, h⟩ | ⟨hne, -, h⟩ := decodePayload_cases s <;> rw [h]
  · exact hs
  · exact fun _ => ⟨hne, rfl, rfl⟩

theorem afterXact_keepsReading {c : Code} {v t : State} (h : AfterXact c v t) (hv : ReadingInv v) : ReadingInv t := by
  cases h with
  | received => exact decodePayload_keepsReading { v with xcode := c } hv
  | probed =>
    obtain ⟨present, count, h⟩ := notePresent_frame c { v with xcode := c }
    rw [h]
    exact hv
  | scanned =>
    obtain ⟨present, count, h⟩ := notePresent_frame c { v with xcode := c }
    rw [h]
    exact hv
  | triggered | triggerFailed | readFailed | answered => exact hv

theorem coreStep_keepsReading {s t : State} (h : CoreStep s t) (hs : ReadingInv s) : ReadingInv t := by
  cases h with
  | first i => cases i <;> exact hs
  | moves t hx h => exact (sameReading_engine h.frame).inv hs
  | ends c v t h ha => exact afterXact_keepsReading ha ((sameReading_engine h.frame).inv hs)
  | _ => exact hs

/-- Settles O50: only a reset, the accept of MEASURE and the decode of a payload write a register of the reading. -/
theorem validReadingStaysCoherent : Obligations.ValidReadingStaysCoherent := by
  intro s t hs h
  refine step_keeps (P := ReadingInv) ?host ?reset ?refuse ?accept ?core h hs
  case host => rintro s _ ⟨⟩ hs; exact hs
  case reset => exact fun s => nofun
  case refuse => exact fun w s _ hs => hs
  case accept =>
    intro i s _ _ hs
    cases i with
    | measure => exact nofun
    | _ => exact hs
  case core => exact fun s t _ h hs => coreStep_keepsReading (coreStep_cases h) hs

/-! ### The scan file (R39, R40, R190) -/

/-- The reserved addresses are absent, and no more than the valid ones are counted. -/
def ScanFile (s : State) : Prop :=
  s.present.getLsbD 0 = false ∧ s.present.getLsbD 127 = false ∧ s.count.toNat ≤ 126

/-- SADDR is a valid address and COUNT counts earlier ones. -/
def ProbeInRange (s : State) : Prop := 1 ≤ s.saddr.toNat ∧ s.saddr.toNat ≤ 126 ∧ s.count.toNat < s.saddr.toNat

theorem scanFile_of_scanInv {s : State} (h : ScanInv s) : ScanFile s :=
  have ⟨h0, h127, hc, _⟩ := h
  ⟨h0, h127, hc⟩

theorem probeInRange_of_scanInv {s : State} (h : ScanInv s) (hu : ∀ i, s.upc ≠ .accepted i) (hb : s.busy = true)
    (h5 : s.opcur = 5#4) : ProbeInRange s :=
  have ⟨_, _, _, _, hs⟩ := h
  hs ⟨hb, h5, hu⟩

theorem scanFile_empty {s : State} (hp : s.present = 0#128) (hc : s.count = 0#7) : ScanFile s := by
  simp [ScanFile, hp, hc]

theorem scanInv_idle {s : State} (h : ScanFile s) (hb : s.busy = false) (hu : s.upc = .idle) : ScanInv s :=
  have ⟨h0, h127, hc⟩ := h
  ⟨h0, h127, hc, fun hu' => by simp [hu] at hu', fun hs => by simp [hs.1] at hb⟩

theorem scanInv_inside {s : State} (h : ScanFile s) (hu : ∀ i, s.upc ≠ .accepted i)
    (hp : s.opcur = 5#4 → ProbeInRange s) : ScanInv s :=
  have ⟨h0, h127, hc⟩ := h
  ⟨h0, h127, hc, fun hu' => absurd hu' (hu .scan), fun hs => hp hs.2.1⟩

theorem notAccepted_of_inXact {u : Upc} (h : inXact u = true) (i : Instr) : u ≠ .accepted i := by
  rintro rfl
  cases h

/-- Noting a probe of a valid address: no reserved address becomes present, and COUNT goes up by at most one. -/
theorem notePresent_scanFile (c : Code) {s : State} (h : ScanFile s) (hp : ProbeInRange s) :
    ScanFile (notePresent c s) ∧ (notePresent c s).count.toNat ≤ s.saddr.toNat := by
  obtain ⟨pos, le, hcount⟩ := hp
  by_cases hc : c = .ok
  · obtain ⟨h0, h127, -⟩ := h
    subst hc
    have hadd : (s.count + 1#7).toNat = s.count.toNat + 1 := by bv_omega
    have hbit (k : Nat) (hk : k ≠ s.saddr.toNat) : (1#128 <<< s.saddr.toNat).getLsbD k = false := by
      rw [BitVec.getLsbD_shiftLeft, BitVec.getLsbD_one]
      grind
    refine ⟨⟨?_, ?_, ?_⟩, ?_⟩ <;> simp only [notePresent]
    · rw [BitVec.getLsbD_or, h0, hbit 0 (by omega)]; rfl
    · rw [BitVec.getLsbD_or, h127, hbit 127 (by omega)]; rfl
    · omega
    · omega
  · rw [notePresent_failed c s hc]
    exact ⟨h, hcount.le⟩

theorem decodePayload_keepsScanFile {s : State} (h : ScanFile s) : ScanFile (decodePayload s).2 := by
  obtain ⟨-, -, h'⟩ | ⟨-, -, h'⟩ := decodePayload_cases s <;> rw [h'] <;> exact h

theorem startProbe_scanInv (a : BusAddr) {s : State} (hf : ScanFile s) (ha : a.toNat ≤ 126)
    (hc : s.count.toNat < a.toNat) : ScanInv (startProbe a s) :=
  scanInv_inside hf nofun fun _ => ⟨Nat.lt_of_le_of_lt (Nat.zero_le _) hc, ha, hc⟩

theorem afterXact_keepsScanInv {c : Code} {v t : State} (h : AfterXact c v t) (hf : ScanFile v)
    (hp : v.opcur = 5#4 → ProbeInRange v) : ScanInv t := by
  cases h with
  | triggered | readFailed => exact scanInv_inside hf nofun hp
  | triggerFailed | answered => exact scanInv_idle hf rfl rfl
  | received => exact scanInv_idle (decodePayload_keepsScanFile (s := { v with xcode := c }) hf) rfl rfl
  | probed h5 ha =>
    obtain ⟨hf', hc⟩ := notePresent_scanFile c (s := { v with xcode := c }) hf (hp h5)
    have hmax : Config.addrMax = 126 := rfl
    have hnext : (v.saddr + 1#7).toNat = v.saddr.toNat + 1 := by bv_omega
    exact startProbe_scanInv _ hf' (by omega) (by rw [hnext]; exact Nat.lt_succ_of_le hc)
  | scanned h5 ha =>
    obtain ⟨hf', -⟩ := notePresent_scanFile c (s := { v with xcode := c }) hf (hp h5)
    exact scanInv_idle hf' rfl rfl

theorem opcur_of_accepted {s : State} {i : Instr} (h : PositionInv s) (hu : s.upc = .accepted i) :
    s.opcur = opField (encode i) :=
  (h.2 i hu).2

/-- A command that is no scan leaves the scan file alone (R39). -/
theorem scanInv_notScan {s : State} (h : ScanFile s) (hu : ∀ i, s.upc ≠ .accepted i) (h5 : s.opcur ≠ 5#4) : ScanInv s :=
  scanInv_inside h hu fun h => absurd h h5

theorem firstPrimitive_keepsScanInv {i : Instr} {s : State} (hop : s.opcur = opField (encode i))
    (hf : ScanFile s) (hcount : i = .scan → s.count = 0#7) : ScanInv (firstPrimitive i s) := by
  cases i with
  | scan => exact startProbe_scanInv _ hf (by decide) (by rw [hcount rfl]; decide)
  | write a l => exact scanInv_notScan hf nofun (by rw [opField_write] at hop; simp [firstPrimitive, startXact_eq, hop])
  | read a l => exact scanInv_notScan hf nofun (by rw [opField_read] at hop; simp [firstPrimitive, startXact_eq, hop])
  | forceClear => exact scanInv_notScan hf nofun (hop.trans_ne (by decide))
  | measure => exact scanInv_notScan hf nofun (hop.trans_ne (by decide))
  | reinit => exact scanInv_notScan hf nofun (hop.trans_ne (by decide))

theorem notAccepted_of_pulsing {u : Upc} (h : pulsing u = true) (i : Instr) : u ≠ .accepted i := by
  rintro rfl
  cases h

theorem coreStep_keepsScanInv {s t : State} (hb : s.busy = true) (hpos : PositionInv s) (h : CoreStep s t)
    (hs : ScanInv s) : ScanInv t := by
  have hf := scanFile_of_scanInv hs
  have hp (hu : ∀ i, s.upc ≠ .accepted i) : s.opcur = 5#4 → ProbeInRange s := probeInRange_of_scanInv hs hu hb
  cases h with
  | first i hu =>
    have ⟨_, _, _, hcount, _⟩ := hs
    exact firstPrimitive_keepsScanInv (opcur_of_accepted hpos hu) hf (fun hi => hcount (hi ▸ hu))
  | moves t hx h =>
    refine scanInv_inside ?_ (notAccepted_of_inXact h.position) ?_
    · rw [ScanFile, h.frame.present, h.frame.count]; exact hf
    · rw [ProbeInRange, h.frame.opcur, h.frame.saddr, h.frame.count]; exact hp (notAccepted_of_inXact hx)
  | ends c v t h ha =>
    refine afterXact_keepsScanInv ha ?_ ?_
    · rw [ScanFile, h.frame.present, h.frame.count]; exact hf
    · rw [ProbeInRange, h.frame.opcur, h.frame.saddr, h.frame.count]; exact hp (notAccepted_of_inXact h.position)
  | edge u sclO e hu hu' => exact scanInv_inside hf (notAccepted_of_pulsing hu') (hp (notAccepted_of_pulsing hu))
  | pulses hu | nextPulse hu | settles hu | recovers hu | converted hu | released hu =>
    exact scanInv_inside hf nofun (hp (by simp [hu]))
  | cleared | recovered | reinited => exact scanInv_idle hf rfl rfl

/-- Settles O51: a scan notes the address it has just probed, which is above every one it has counted, and then goes on
to the next. -/
theorem scanFileStaysInRange : Obligations.ScanFileStaysInRange := by
  intro s t hp hs h
  refine step_keeps_of_positionInv (P := ScanInv) ?host ?reset ?refuse ?accept (fun _ _ => coreStep_keepsScanInv)
    h hp hs
  case host => rintro s _ ⟨⟩ hs; exact hs
  case reset => exact fun s => scanInv_idle (scanFile_empty rfl rfl) rfl rfl
  case refuse =>
    intro w s hb hu hs
    have hf := scanFile_of_scanInv hs
    exact scanInv_idle hf hb hu
  case accept =>
    intro i s _ _ _ hs
    obtain ⟨h0, h127, hc⟩ := scanFile_of_scanInv hs
    cases i with
    | scan =>
      obtain ⟨h0, h127, hc⟩ := scanFile_empty (s := clearScan s) rfl rfl
      exact ⟨h0, h127, hc, fun _ => rfl, fun hs => absurd rfl (hs.2.2 .scan)⟩
    | _ => exact ⟨h0, h127, hc, nofun, fun hs => absurd rfl (hs.2.2 _)⟩

end Sys2Proof.Proofs
end


section
/-! ## Proofs: the invariants of the counters and of the three state machines (R45, R47, R48, R49) -/

open Sys2Proof Sys2Proof.Machine Sys2Proof.Safety

namespace Sys2Proof.Proofs

/-! ### The counters (R45, R141, R152) -/

/-- The latched budgets MEASURE and SCAN go on to use are not 0 (R107). -/
def BudgetsKept (s : State) : Prop :=
  (s.opcur = 4#4 → s.opShort ≠ 0#32 ∧ s.opLong ≠ 0#32) ∧ (s.opcur = 5#4 → s.opShort ≠ 0#32)

theorem budgetsKept_of_countersInv {s : State} (h : CountersInv s) (hb : s.busy = true) : BudgetsKept s :=
  have ⟨_, _, _, _, _, h4, h5, _⟩ := h
  ⟨h4 hb, h5 hb⟩

theorem budgetsKept_engine {s t : State} (f : EngineFrame s t) (h : BudgetsKept s) : BudgetsKept t := by
  unfold BudgetsKept
  rwa [f.opcur, f.opShort, f.opLong]

theorem inXact_of_inByte {u : Upc} (h : inByte u = true) : inXact u = true := by
  cases u <;> simp_all [inByte, inXact]

theorem inXact_of_polling {u : Upc} (h : polling u = true) : inXact u = true := by
  cases u <;> simp_all [polling, inXact]

theorem not_inXact_of_pulsing {u : Upc} (h : pulsing u = true) : inXact u = false := by
  cases u <;> simp_all [pulsing, inXact]

theorem xactCounters_of_countersInv {s : State} (h : CountersInv s) (hx : inXact s.upc = true) : XactCounters s :=
  have ⟨hrange, hbyte, hpoll, _⟩ := h
  ⟨hrange hx, hbyte, hpoll⟩

theorem countersInv_inXact {s : State} (hx : inXact s.upc = true) (hc : XactCounters s) (hb : BudgetsKept s) :
    CountersInv s := by
  refine ⟨fun _ => hc.range, hc.byte, hc.poll, ?_, ?_, fun _ => hb.1, fun _ => hb.2, ?_⟩
  · exact fun hp => absurd ((not_inXact_of_pulsing hp).symm.trans hx) (by decide)
  · unfold budgetsLatched
    split <;> simp_all [inXact]
  · intro hu
    simp [hu, inXact] at hx

theorem countersInv_outside {s : State} (hx : inXact s.upc = false)
    (hp : pulsing s.upc = true → 1 ≤ s.pulse.toNat ∧ s.pulse.toNat ≤ Config.nPulses) (hl : budgetsLatched s)
    (hb : s.busy = true → BudgetsKept s) (hc : s.upc = .convDly → s.opLong ≠ 0#32) : CountersInv s := by
  have hout {q : Prop} (h : inXact s.upc = true) : q := absurd (hx.symm.trans h) (by decide)
  exact ⟨hout, fun h => hout (inXact_of_inByte h), fun h => hout (inXact_of_polling h), hp, hl, fun h => (hb h).1,
    fun h => (hb h).2, hc⟩

theorem countersInv_idle {s : State} (hb : s.busy = false) (hu : s.upc = .idle) : CountersInv s :=
  countersInv_outside (by simp [hu, inXact]) (by simp [hu, pulsing]) (by simp [budgetsLatched, hu]) (by simp [hb])
    (by simp [hu])

theorem startXact_countersInv (d : Dir) (a : BusAddr) (l : Byte) {b : Word} (sel : XSel) {s : State} (hb : b ≠ 0#32)
    (hk : BudgetsKept s) : CountersInv (startXact d a l b sel s) :=
  countersInv_inXact rfl ⟨⟨hb, Nat.zero_le _⟩, nofun, fun _ => hb⟩ hk

theorem firstPrimitive_keepsCounters {i : Instr} {s : State} (hu : s.upc = .accepted i)
    (hop : s.opcur = opField (encode i)) (hl : budgetsLatched s) (hk : BudgetsKept s) :
    CountersInv (firstPrimitive i s) := by
  cases i with
  | write a l => exact startXact_countersInv _ _ _ _ (by simpa [budgetsLatched, hu] using hl) hk
  | read a l => exact startXact_countersInv _ _ _ _ (by simpa [budgetsLatched, hu] using hl) hk
  | forceClear => exact countersInv_outside rfl nofun trivial (fun _ => hk) nofun
  | measure => exact startXact_countersInv _ _ _ _ (hk.1 (hop.trans (by decide))).1 hk
  | scan =>
    have hk' : BudgetsKept { s with saddr := BitVec.ofNat 7 Config.addrMin } := hk
    exact startXact_countersInv _ _ _ _ (hk.2 (hop.trans (by decide))) hk'
  | reinit => exact countersInv_outside rfl nofun trivial (fun _ => hk) nofun

theorem afterXact_keepsCounters {c : Code} {v t : State} (h : AfterXact c v t) (hk : BudgetsKept v) :
    CountersInv t := by
  cases h with
  | triggered h4 => exact countersInv_outside rfl nofun trivial (fun _ => hk) (fun _ => (hk.1 h4).2)
  | readFailed => exact countersInv_outside rfl nofun trivial (fun _ => hk) nofun
  | probed h5 =>
    obtain ⟨present, count, h⟩ := notePresent_frame c { v with xcode := c }
    rw [h]
    have hk' : BudgetsKept { v with xcode := c, present := present, count := count, saddr := v.saddr + 1#7 } := hk
    exact startXact_countersInv _ _ _ _ (hk.2 h5) hk'
  | triggerFailed | received | scanned | answered => exact countersInv_idle rfl rfl

theorem toPulse_countersInv {k : Nat} {s : State} (hk : 1 ≤ k) (hn : k ≤ Config.nPulses) (hb : BudgetsKept s) :
    CountersInv (toPulse k s) := by
  have hnine : Config.nPulses = 9 := rfl
  have hpulse : (toPulse k s).pulse.toNat = k := Nat.mod_eq_of_lt (by omega)
  exact countersInv_outside rfl (fun _ => by rw [hpulse]; exact ⟨hk, hn⟩) trivial (fun _ => hb) nofun

theorem coreStep_keepsCounters {s t : State} (hb : s.busy = true) (hpos : PositionInv s) (h : CoreStep s t)
    (hs : CountersInv s) : CountersInv t := by
  have hk := budgetsKept_of_countersInv hs hb
  cases h with
  | first i hu =>
    have ⟨_, _, _, _, hl, _⟩ := hs
    exact firstPrimitive_keepsCounters hu (opcur_of_accepted hpos hu) hl hk
  | moves t hx h =>
    exact countersInv_inXact h.position (h.counters (xactCounters_of_countersInv hs hx)) (budgetsKept_engine h.frame hk)
  | ends c v t h ha => exact afterXact_keepsCounters ha (budgetsKept_engine h.frame hk)
  | pulses => exact toPulse_countersInv (by decide) (by decide) hk
  | edge u sclO e hs' hu =>
    have ⟨_, _, _, hp, _⟩ := hs
    refine countersInv_outside (not_inXact_of_pulsing hu) (fun _ => hp hs') ?_ (fun _ => hk) ?_
    · have hacc := notAccepted_of_pulsing hu
      unfold budgetsLatched
      split
      · exact absurd ‹_› (hacc _)
      · exact absurd ‹_› (hacc _)
      · trivial
    · rintro rfl
      cases hu
  | nextPulse hu hp => exact toPulse_countersInv (by omega) hp hk
  | converted hu =>
    have ⟨_, _, _, _, _, _, _, hl⟩ := hs
    have hk' : BudgetsKept { s with dstate := .reading } := hk
    exact startXact_countersInv _ _ _ _ (hl hu) hk'
  | settles | recovers | released => exact countersInv_outside rfl nofun trivial (fun _ => hk) nofun
  | cleared | recovered | reinited => exact countersInv_idle rfl rfl

/-- The budgets a command copies when it is accepted passed the operand check (R107, R197). -/
theorem budgetsKept_accepted (i : Instr) {s : State} (ho : operandsLegal i s = true) :
    BudgetsKept (acceptedState i s) := by
  unfold BudgetsKept
  rw [acceptedState_opcur]
  cases i with
  | measure =>
    have hb : s.tbShort ≠ 0#32 ∧ s.tbLong ≠ 0#32 := by simpa [operandsLegal, budgetLegal] using ho
    exact ⟨fun _ => hb, by simp⟩
  | scan =>
    have hb : s.tbShort ≠ 0#32 := by simpa [operandsLegal, budgetLegal, Config.hasScan] using ho
    exact ⟨by simp, fun _ => hb⟩
  | _ => simp

theorem budgetsLatched_accepted (i : Instr) {s : State} (ho : operandsLegal i s = true) :
    budgetsLatched (acceptedState i s) := by
  cases i with
  | write a l =>
    have hb : s.tbudget ≠ 0#32 := by simp_all [operandsLegal, budgetLegal]
    exact hb
  | read a l =>
    have hb : s.tbudget ≠ 0#32 := by simp_all [operandsLegal, budgetLegal]
    exact hb
  | _ => trivial

/-- Settles O52: a poll starts from a budget that is not 0 and goes on while CNT is not 0; the data loop and the pulses
test their index before they go on. -/
theorem countersNeverWrap : Obligations.CountersNeverWrap := by
  intro s t hp hs h
  refine step_keeps_of_positionInv (P := CountersInv) ?host ?reset ?refuse ?accept (fun _ _ => coreStep_keepsCounters)
    h hp hs
  case host => rintro s _ ⟨⟩ hs; exact hs
  case reset => exact fun s => countersInv_idle rfl rfl
  case refuse => exact fun w s hb hu _ => countersInv_idle hb hu
  case accept =>
    exact fun i s _ _ ho _ =>
      countersInv_outside rfl nofun (budgetsLatched_accepted i ho) (fun _ => budgetsKept_accepted i ho) nofun

/-! ### The three state machines (R47, R48, R49) -/

/-- The BusRecoveryController is at rest. -/
def AtRest (s : State) : Prop := s.rstate = .idle ∧ s.pulse = 0#4

/-- The transaction of a MEASURE is its trigger or its read, as DSTATE says. -/
def StageNamed (s : State) : Prop :=
  s.opcur = 4#4 → (s.dstate = .triggered ∧ s.xdir = .write) ∨ (s.dstate = .reading ∧ s.xdir = .read)

/-- `ForceClear()` inside a MEASURE follows its failed read. -/
def ReadFailed (s : State) : Prop := s.opcur = 4#4 → s.dstate = .reading ∧ s.estate = .failed

theorem inPhase_of_statesInv {s : State} (h : StatesInv s) (hx : inXact s.upc = true) : InPhase s := by
  obtain ⟨hphase, -⟩ := h
  unfold InPhase
  cases hu : s.upc <;> simp_all [phases, inXact]

theorem atRest_of_statesInv {s : State} (h : StatesInv s) (hp : pulsing s.upc = false) (hs : s.upc ≠ .fcSettle) :
    AtRest s := by
  obtain ⟨-, hrstate, hpulse, -⟩ := h
  exact ⟨by simpa [hp, hs] using hrstate, hpulse hp⟩

theorem statesInv_inXact {s : State} (hx : inXact s.upc = true) (hp : InPhase s) (hr : AtRest s) (hm : StageNamed s) :
    StatesInv s := by
  have hout : pulsing s.upc = false ∧ s.upc ≠ .fcSettle ∧ s.upc ≠ .fcDrive := by
    cases hu : s.upc <;> simp_all [pulsing, inXact]
  obtain ⟨hpu, hse, hdr⟩ := hout
  refine ⟨?_, by simp [hpu, hse, hr.1], fun _ => hr.2, fun _ h4 _ => hm h4, fun _ _ h => ?_⟩
  · unfold InPhase at hp
    cases hu : s.upc <;> simp_all [phases, inXact]
  · simp [hpu, hse, hdr] at h

/-- Outside transactions and pulses: what DSTATE and ESTATE are at the positions that name them. -/
theorem statesInv_outside {s : State} (hx : inXact s.upc = false) (hp : pulsing s.upc = false) (hs : s.upc ≠ .fcSettle)
    (hr : AtRest s) (haccepted : s.upc = .accepted .measure → s.dstate = .triggered)
    (hconv : s.upc = .convDly → s.dstate = .await ∧ s.estate = .done)
    (hrecover : s.upc = .recoverDly → s.dstate = .reading ∧ s.estate = .failed)
    (hdrive : s.upc = .fcDrive → ReadFailed s) : StatesInv s := by
  refine ⟨?_, by simp [hp, hs, hr.1], fun _ => hr.2, fun _ _ h => ?_, fun _ h4 h => ?_⟩
  · split <;> simp_all [inXact]
  · exact absurd (hx.symm.trans h) (by decide)
  · obtain h | h | h := h
    · exact hdrive h h4
    · exact absurd (hp.symm.trans h) (by decide)
    · exact absurd h hs

theorem statesInv_idle {s : State} (hu : s.upc = .idle) (hr : AtRest s) : StatesInv s :=
  statesInv_outside (by simp [hu, inXact]) (by simp [hu, pulsing]) (by simp [hu]) hr (by simp [hu]) (by simp [hu])
    (by simp [hu]) (by simp [hu])

theorem statesInv_pulsing {s : State} (hp : pulsing s.upc = true) (hr : s.rstate = .pulse) (hf : ReadFailed s) :
    StatesInv s := by
  refine ⟨?_, by simp [hp, hr], by simp [hp], fun _ _ h => ?_, fun _ h4 _ => hf h4⟩
  · split <;> simp_all [pulsing]
  · exact absurd ((not_inXact_of_pulsing hp).symm.trans h) (by decide)

theorem readFailed_of_statesInv {s : State} (h : StatesInv s) (hb : s.busy = true)
    (hu : s.upc = .fcDrive ∨ pulsing s.upc = true ∨ s.upc = .fcSettle) : ReadFailed s :=
  have ⟨_, _, _, _, hf⟩ := h
  fun h4 => hf hb h4 hu

theorem startXact_statesInv (d : Dir) (a : BusAddr) (l : Byte) (b : Word) (sel : XSel) {s : State} (hr : AtRest s)
    (hm : s.opcur = 4#4 → (s.dstate = .triggered ∧ d = .write) ∨ (s.dstate = .reading ∧ d = .read)) :
    StatesInv (startXact d a l b sel s) :=
  statesInv_inXact rfl (.head _) hr hm

theorem firstPrimitive_keepsStates {i : Instr} {s : State} (hop : s.opcur = opField (encode i)) (hr : AtRest s)
    (hm : i = .measure → s.dstate = .triggered) : StatesInv (firstPrimitive i s) := by
  cases i with
  | write a l => exact startXact_statesInv _ _ _ _ _ hr (by rw [hop]; simp)
  | read a l => exact startXact_statesInv _ _ _ _ _ hr (by rw [hop]; simp)
  | forceClear =>
    have hf : ReadFailed (firstPrimitive .forceClear s) := fun h4 => absurd (hop.symm.trans h4) (by decide)
    exact statesInv_outside rfl rfl nofun hr nofun nofun nofun fun _ => hf
  | measure => exact startXact_statesInv _ _ _ _ _ hr fun _ => .inl ⟨hm rfl, rfl⟩
  | scan =>
    have hr' : AtRest { s with saddr := BitVec.ofNat 7 Config.addrMin } := hr
    exact startXact_statesInv _ _ _ _ _ hr' (by rw [hop]; simp)
  | reinit => exact statesInv_outside rfl rfl nofun hr nofun nofun nofun nofun

theorem decodePayload_keepsRest {s : State} (h : AtRest s) : AtRest (decodePayload s).2 := by
  obtain ⟨-, -, h'⟩ | ⟨-, -, h'⟩ := decodePayload_cases s <;> rw [h'] <;> exact h

theorem afterXact_keepsStates {c : Code} {v t : State} (h : AfterXact c v t) (hr : AtRest v) (hm : StageNamed v)
    (he : v.estate = if c = .ok then .done else .failed) : StatesInv t := by
  cases h with
  | triggered h4 hd hc =>
    rw [if_pos hc] at he
    exact statesInv_outside rfl rfl nofun hr nofun (fun _ => ⟨rfl, he⟩) nofun nofun
  | readFailed h4 hd hc =>
    rw [if_neg hc] at he
    have hread : v.dstate = .reading := ((hm h4).resolve_left fun h => hd h.1).1
    have hf : ReadFailed (toForceClear { v with xcode := c }) := fun _ => ⟨hread, he⟩
    exact statesInv_outside rfl rfl nofun hr nofun nofun nofun fun _ => hf
  | probed h5 =>
    obtain ⟨present, count, h⟩ := notePresent_frame c { v with xcode := c }
    rw [h]
    have hr' : AtRest { v with xcode := c, present := present, count := count, saddr := v.saddr + 1#7 } := hr
    exact startXact_statesInv _ _ _ _ _ hr' fun h4 => absurd (h5.symm.trans h4) (by decide)
  | scanned =>
    obtain ⟨present, count, h⟩ := notePresent_frame c { v with xcode := c }
    rw [h]
    exact statesInv_idle rfl hr
  | received =>
    have hr' := decodePayload_keepsRest (s := { v with xcode := c }) hr
    exact statesInv_idle rfl hr'
  | triggerFailed | answered => exact statesInv_idle rfl hr

theorem coreStep_keepsStates {s t : State} (hb : s.busy = true) (hpos : PositionInv s) (h : CoreStep s t)
    (hs : StatesInv s) : StatesInv t := by
  have hrest := atRest_of_statesInv hs
  have hfailed := readFailed_of_statesInv hs hb
  have hstage : inXact s.upc = true → StageNamed s :=
    have ⟨_, _, _, hm, _⟩ := hs
    fun hx h4 => hm hb h4 hx
  have hout {u : Upc} (hx : inXact u = true) : pulsing u = false ∧ u ≠ .fcSettle := by
    cases u <;> simp_all [pulsing, inXact]
  cases h with
  | first i hu =>
    refine firstPrimitive_keepsStates (opcur_of_accepted hpos hu) (hrest (by simp [hu, pulsing]) (by simp [hu])) ?_
    rintro rfl
    have ⟨hnamed, _⟩ := hs
    rw [hu] at hnamed
    exact hnamed
  | moves t hx h =>
    obtain ⟨hp, hse⟩ := hout hx
    have hr := hrest hp hse
    have hm := hstage hx
    refine statesInv_inXact h.position (h.phase (inPhase_of_statesInv hs hx)) ?_ ?_
    · rw [AtRest, h.frame.rstate, h.frame.pulse]; exact hr
    · rw [StageNamed, h.frame.opcur, h.frame.dstate, h.frame.xdir]; exact hm
  | ends c v t h ha =>
    obtain ⟨hp, hse⟩ := hout h.position
    have hr := hrest hp hse
    have hm := hstage h.position
    refine afterXact_keepsStates ha ?_ ?_ h.estate
    · rw [AtRest, h.frame.rstate, h.frame.pulse]; exact hr
    · rw [StageNamed, h.frame.opcur, h.frame.dstate, h.frame.xdir]; exact hm
  | pulses hu => exact statesInv_pulsing rfl rfl (hfailed (.inl hu))
  | edge u sclO e hp hu =>
    have ⟨_, hr, _⟩ := hs
    rw [if_pos hp] at hr
    exact statesInv_pulsing hu hr (hfailed (.inr (.inl hp)))
  | nextPulse hu =>
    have ⟨_, hr, _⟩ := hs
    rw [if_pos (hu ▸ rfl)] at hr
    exact statesInv_pulsing rfl hr (hfailed (.inr (.inl (hu ▸ rfl))))
  | settles hu =>
    have hf := hfailed (.inr (.inl (hu ▸ rfl)))
    exact ⟨trivial, rfl, fun _ => rfl, nofun, fun _ h4 _ => hf h4⟩
  | recovers hu h4 =>
    have hf := hfailed (.inr (.inr hu))
    have ⟨_, _, hpulse, _⟩ := hs
    exact statesInv_outside rfl rfl nofun ⟨rfl, hpulse (hu ▸ rfl)⟩ nofun nofun (fun _ => hf h4) nofun
  | cleared hu =>
    have ⟨_, _, hpulse, _⟩ := hs
    exact statesInv_idle rfl ⟨rfl, hpulse (hu ▸ rfl)⟩
  | converted hu =>
    have hr := hrest (by simp [hu, pulsing]) (by simp [hu])
    have hr' : AtRest { s with dstate := .reading } := hr
    exact startXact_statesInv _ _ _ _ _ hr' fun _ => .inr ⟨rfl, rfl⟩
  | released hu =>
    have hr := hrest (by simp [hu, pulsing]) (by simp [hu])
    exact statesInv_outside rfl rfl nofun hr nofun nofun nofun nofun
  | recovered hu | reinited hu =>
    have hr := hrest (by simp [hu, pulsing]) (by simp [hu])
    exact statesInv_idle rfl hr

/-- Settles O53: ESTATE moves with the phases, DSTATE with the stages of MEASURE, RSTATE and PULSE with the pulses. -/
theorem stateMachinesNameTheirPhase : Obligations.StateMachinesNameTheirPhase := by
  intro s t hp hs h
  refine step_keeps_of_positionInv (P := StatesInv) ?host ?reset ?refuse ?accept (fun _ _ => coreStep_keepsStates)
    h hp hs
  case host => rintro s _ ⟨⟩ hs; exact hs
  case reset => exact fun s => statesInv_idle rfl ⟨rfl, rfl⟩
  case refuse =>
    intro w s _ hu hs
    have hr := atRest_of_statesInv hs (by simp [hu, pulsing]) (by simp [hu])
    exact statesInv_idle hu hr
  case accept =>
    intro i s _ hu _ hs
    have hr := atRest_of_statesInv hs (by simp [hu, pulsing]) (by simp [hu])
    cases i with
    | measure => exact statesInv_outside rfl rfl nofun hr (fun _ => rfl) nofun nofun nofun
    | _ => exact statesInv_outside rfl rfl nofun hr nofun nofun nofun nofun

/-! ### Reset (R59) -/

/-- Settles O55: the block is idle after reset, where each invariant asks for little. -/
theorem resetMeetsTheInvariants : Obligations.ResetMeetsTheInvariants := by
  have hpos : PositionInv State.reset := positionInv_idle rfl rfl
  exact ⟨hpos, wf_reset, ⟨nofun, nofun⟩, nofun, scanInv_idle (scanFile_empty rfl rfl) rfl rfl,
    countersInv_idle rfl rfl, statesInv_idle rfl ⟨rfl, rfl⟩, hpos, nofun, .start, rfl, rfl, rfl, rfl⟩

end Sys2Proof.Proofs
end


section
/-! ## Proofs: what a transaction receives and stores, and the acknowledge policy it leaves (R54, R143, R146, R150) -/

open Sys2Proof Sys2Proof.Machine Sys2Proof.Safety

namespace Sys2Proof.Proofs

/-! ### Bytes received -/

/-- From `s` to `t` the block receives ENV's next `n` answers, in order, and no others. -/
structure Received (n : Nat) (s t : State) : Prop where
  trace : ∃ evs, t.trace = s.trace ++ evs ∧ rxBytes evs = (List.range n).map (rxAhead s)
  ahead : ∀ k, rxAhead t k = rxAhead s (n + k)

theorem Received.trans {n m : Nat} {s t u : State} (h : Received n s t) (h' : Received m t u) :
    Received (n + m) s u := by
  obtain ⟨⟨es, ht, hes⟩, hahead⟩ := h
  obtain ⟨⟨fs, hu, hfs⟩, hahead'⟩ := h'
  refine ⟨⟨es ++ fs, by rw [hu, ht, List.append_assoc], ?_⟩, fun k => ?_⟩
  · rw [rxBytes_append, hes, hfs, List.range_add, List.map_append, List.map_map]
    exact congrArg _ (List.map_congr_left fun k _ => hahead k)
  · rw [hahead', hahead, Nat.add_assoc]

/-- What a transaction receives into, and what it receives from. -/
def wire (s : State) : List Event × List Byte × Nat × Nat × Memory × Payload × Bool :=
  (s.trace, s.rxIn, s.nRx, s.epoch, s.buf, s.pay, s.ackpol)

/-- From `s` to `t` the block receives nothing and stores nothing; ACKPOL is `p` then. -/
structure Quiet (p : Bool) (s t : State) : Prop where
  received : Received 0 s t
  buf      : t.buf = s.buf
  pay      : t.pay = s.pay
  epoch    : t.epoch = s.epoch
  ackpol   : t.ackpol = p

theorem Quiet.append {p q : Bool} {s t u : State} (h : Quiet p s t) (h' : Quiet q t u) : Quiet q s u where
  received := h.received.trans h'.received
  buf := h'.buf.trans h.buf
  pay := h'.pay.trans h.pay
  epoch := h'.epoch.trans h.epoch
  ackpol := h'.ackpol

/-- A second part that keeps the policy. -/
theorem Quiet.trans {p : Bool} {s t u : State} (h : Quiet p s t) (h' : Quiet t.ackpol t u) : Quiet p s u :=
  h.ackpol ▸ h.append h'

theorem quiet_of_wire_eq {s t : State} (h : wire t = wire s) : Quiet s.ackpol s t := by
  simp only [wire, Prod.mk.injEq] at h
  obtain ⟨htrace, hrx, hn, hepoch, hbuf, hpay, hack⟩ := h
  exact ⟨⟨⟨[], by simp [htrace], rfl⟩, fun k => by simp [rxAhead, hrx, hn, hepoch]⟩, hbuf, hpay, hepoch, hack⟩

theorem Quiet.refl (s : State) : Quiet s.ackpol s s := quiet_of_wire_eq rfl

/-- An event that is no reception. -/
theorem emit_quiet {e : Event} (he : rxBytes [e] = []) (s : State) : Quiet s.ackpol s (emit e s) :=
  ⟨⟨⟨[e], rfl, he⟩, fun k => by simp⟩, rfl, rfl, rfl, rfl⟩

theorem luSample_quiet (s : State) : Quiet s.ackpol s (luSample s) :=
  ⟨⟨⟨[.smp (nextFlags s)], rfl, rfl⟩, fun k => by simp⟩, rfl, rfl, rfl, rfl⟩

theorem luSetAck_quiet (p : Bool) (s : State) : Quiet p s (luSetAck p s) :=
  ⟨⟨⟨[.ack p], rfl, rfl⟩, fun k => by rw [Nat.zero_add]; rfl⟩, rfl, rfl, rfl, rfl⟩

theorem luRxRead_received (s : State) : Received 1 s (luRxRead s) :=
  ⟨⟨[.rx (nextRx s)], rfl, by simp [rxBytes]⟩, fun k => by rw [rxAhead_luRxRead, Nat.add_comm]⟩

/-! ### The phases (R141 to R148) -/

theorem countDown_quiet (s : State) : Quiet s.ackpol s (countDown s) := quiet_of_wire_eq rfl

theorem pollLoop_quiet (c : PollCond) (watch : Bool) (n : Nat) (s : State) :
    Quiet s.ackpol s (pollLoop c watch n s).2 := by
  induction n generalizing s with
  | zero => exact .refl s
  | succ n ih =>
    unfold pollLoop
    split
    · exact luSample_quiet s
    · exact ((luSample_quiet s).trans (countDown_quiet _)).trans (ih (countDown (luSample s)))

theorem poll_quiet (c : PollCond) (watch : Bool) (b : Word) (s : State) : Quiet s.ackpol s (poll c watch b s).2 :=
  (quiet_of_wire_eq rfl : Quiet s.ackpol s { s with cnt := b }).trans (pollLoop_quiet c watch b.toNat _)

theorem failPlain_quiet (c : Code) (s : State) : Quiet s.ackpol s (failPlain c s).2 := quiet_of_wire_eq rfl

theorem failNack_quiet (c : Code) (s : State) : Quiet s.ackpol s (failNack c s).2 :=
  (((emit_quiet rfl s).trans (emit_quiet rfl _)).trans (emit_quiet rfl _)).trans (quiet_of_wire_eq rfl)

theorem estate_quiet (x : EState) (s : State) : Quiet s.ackpol s { s with estate := x } := quiet_of_wire_eq rfl

theorem waitBusFree_quiet (b : Word) (s : State) : Quiet s.ackpol s (waitBusFree b s).2 := by
  have h := (estate_quiet .waitFree s).trans (poll_quiet .busFree false b _)
  unfold waitBusFree
  dsimp only
  split
  · have h2 := ((h.trans (emit_quiet (e := .stop) rfl _)).trans
      (emit_quiet (e := .dly Config.tBusfreeRetry) rfl _)).trans (luSample_quiet _)
    split
    · exact h2.trans (failPlain_quiet _ _)
    · exact h2
  · exact h

/-- The policy a transaction of direction `d` has after its start condition (R143). -/
def startPolicy (d : Dir) (p : Bool) : Bool :=
  match d with
  | .write => p
  | .read => true

theorem startPhase_quiet (d : Dir) (b : Word) (s : State) :
    Quiet (startPolicy d s.ackpol) s (startPhase d b s).2 := by
  have h0 : Quiet (startPolicy d s.ackpol) s (startAck d { s with estate := .start }) := by
    cases d with
    | write => exact estate_quiet .start s
    | read => exact (estate_quiet .start s).append (luSetAck_quiet true _)
  have h := (h0.trans (emit_quiet (e := .start) rfl _)).trans (poll_quiet .txReady false b _)
  unfold startPhase
  dsimp only
  split
  · exact h.trans (failPlain_quiet _ _)
  · exact h

theorem addressPhase_quiet (a : BusAddr) (d : Dir) (b : Word) (s : State) :
    Quiet s.ackpol s (addressPhase a d b s).2 := by
  have h := ((estate_quiet .addr s).trans (emit_quiet (e := .tx (addressByte a d)) rfl _)).trans
    (poll_quiet .txReady true b _)
  unfold addressPhase
  dsimp only
  split
  · exact h
  · exact h.trans (failNack_quiet _ _)
  · exact h.trans (failPlain_quiet _ _)

theorem dataTx_quiet (v : Byte) (b : Word) (s : State) : Quiet s.ackpol s (dataTx v b s).2 := by
  have h := (emit_quiet (e := .tx v) rfl s).trans (poll_quiet .txReady true b _)
  unfold dataTx
  dsimp only
  split
  · exact h
  · exact h.trans (failNack_quiet _ _)
  · exact h.trans (failPlain_quiet _ _)

theorem stopPhase_quiet (s : State) : Quiet s.ackpol s (stopPhase s) :=
  (((estate_quiet .stop s).trans (emit_quiet (e := .stop) rfl _)).trans
    (emit_quiet (e := .dly Config.tStopSettle) rfl _)).trans (estate_quiet .done _)

theorem andThen_of_ok {r : Code × State} {k : State → Code × State} (h : r.1 = .ok) : andThen r k = k r.2 := by
  simp [andThen, h]

theorem andThen_of_ne {r : Code × State} {k : State → Code × State} (h : r.1 ≠ .ok) : andThen r k = r := by
  unfold andThen
  split
  · exact absurd ‹_› h
  · rfl

theorem andThen_quiet {p : Bool} {s : State} {r : Code × State} {k : State → Code × State} (h : Quiet p s r.2)
    (hk : ∀ t, Quiet t.ackpol t (k t).2) : Quiet p s (andThen r k).2 := by
  by_cases hr : r.1 = .ok
  · rw [andThen_of_ok hr]; exact h.trans (hk r.2)
  · rw [andThen_of_ne hr]; exact h

theorem setXidx_quiet (n : Nat) (s : State) : Quiet s.ackpol s (setXidx n s) := quiet_of_wire_eq rfl

/-! ### A write transaction receives nothing and keeps the policy -/

theorem dataLoop_write_quiet (sel : XSel) (l : Nat) (b : Word) (n i : Nat) (s : State) :
    Quiet s.ackpol s (dataLoop .write sel l b n i s).2 := by
  induction n generalizing i s with
  | zero => exact .refl s
  | succ n ih => exact andThen_quiet (andThen_quiet (dataTx_quiet _ b s) (setXidx_quiet (i + 1))) (ih (i + 1))

theorem xact_write_quiet (a : BusAddr) (l : Byte) (b : Word) (sel : XSel) (s : State) :
    Quiet s.ackpol s (xact .write a l b sel s).2 := by
  have hphases (v : State) : Quiet v.ackpol v (xactPhases .write a l b sel v).2 := by
    refine andThen_quiet (waitBusFree_quiet b v) fun s1 => ?_
    refine andThen_quiet (startPhase_quiet .write b s1) fun s2 => ?_
    refine andThen_quiet (addressPhase_quiet a .write b s2) fun s3 => ?_
    refine andThen_quiet ((estate_quiet .data s3).trans (dataLoop_write_quiet sel _ b _ _ _)) fun s4 => ?_
    exact stopPhase_quiet s4
  exact ((quiet_of_wire_eq rfl : Quiet s.ackpol s (latchXact .write a l b sel s)).trans (hphases _)).trans
    (quiet_of_wire_eq rfl)

/-! ### A read transaction (R146, R150) -/

/-- The number of bytes a transaction's array has (R42, R38); a constant source is never stored to. -/
def arraySize : XSel → Nat
  | .buf => Config.bufSize
  | .pay => 4
  | .const _ => 0

theorem payGet_paySet (p : Payload) {i j : Nat} (v : Byte) (hi : i < 4) (hj : j < 4) :
    payGet (paySet p i v) j = if j = i then v else payGet p j := by
  interval_cases i <;> interval_cases j <;> rfl

theorem arrayByte_arrayStore (sel : XSel) {i j : Nat} (v : Byte) (s : State) (hi : i < arraySize sel)
    (hj : j < arraySize sel) : arrayByte sel (arrayStore sel i v s) j = if j = i then v else arrayByte sel s j := by
  cases sel with
  | buf =>
    split
    · subst_vars; exact bufByte_bufStore_same _ v s hi
    · exact bufByte_bufStore_other i j v s ‹_›
  | pay => exact payGet_paySet s.pay v hi hj
  | const b => cases hi

theorem Quiet.arrayByte {p : Bool} {s t : State} (h : Quiet p s t) (sel : XSel) (j : Nat) :
    arrayByte sel t j = arrayByte sel s j := by
  cases sel <;> simp [Machine.arrayByte, bufByte, h.buf, h.pay, h.epoch]

/-- From `s` to `t` the block receives `n` bytes and stores them in the array `sel` from index `i` on. -/
structure Fetched (sel : XSel) (i n : Nat) (s t : State) : Prop where
  received : Received n s t
  stored   : ∀ j, j < arraySize sel →
    arrayByte sel t j = if i ≤ j ∧ j < i + n then rxAhead s (j - i) else arrayByte sel s j

theorem Quiet.fetched {p : Bool} {s t : State} (h : Quiet p s t) (sel : XSel) (i : Nat) : Fetched sel i 0 s t where
  received := h.received
  stored := fun j _ => by rw [if_neg (by omega), h.arrayByte sel j]

theorem Fetched.trans {sel : XSel} {i n m : Nat} {s t u : State} (h : Fetched sel i n s t)
    (h' : Fetched sel (i + n) m t u) : Fetched sel i (n + m) s u where
  received := h.received.trans h'.received
  stored := fun j hj => by
    rw [h'.stored j hj, h.stored j hj, h.received.ahead]
    by_cases hlow : j < i + n
    · have hold : ¬ (i + n ≤ j ∧ j < i + n + m) := by omega
      have hsame : i ≤ j ∧ j < i + (n + m) ↔ i ≤ j ∧ j < i + n := by omega
      simp only [if_neg hold, hsame]
    · have hold : ¬ (i ≤ j ∧ j < i + n) := by omega
      have hsame : i ≤ j ∧ j < i + (n + m) ↔ i + n ≤ j ∧ j < i + n + m := by omega
      simp only [if_neg hold, hsame]
      split
      · congr 1; omega
      · rfl

/-- Parts that receive nothing, before and after. -/
theorem Fetched.between {p q : Bool} {sel : XSel} {i n : Nat} {s s' t t' : State} (h : Quiet p s s')
    (hf : Fetched sel i n s' t') (h' : Quiet q t' t) : Fetched sel i n s t := by
  have hall := ((h.fetched sel i).trans hf).trans (h'.fetched sel _)
  rwa [Nat.zero_add] at hall

/-- `LU.RxRead()` and the store of its byte. -/
theorem arrayStore_fetched (sel : XSel) {i : Nat} (s : State) (hi : i < arraySize sel) :
    Fetched sel i 1 s (arrayStore sel i (nextRx s) (luRxRead s)) where
  received := by
    have h := luRxRead_received s
    rw [arrayStore_frame]
    exact ⟨h.trace, h.ahead⟩
  stored := fun j hj => by
    have hold : arrayByte sel (luRxRead s) j = arrayByte sel s j := by cases sel <;> rfl
    rw [arrayByte_arrayStore sel _ _ hi hj, hold]
    by_cases h : j = i
    · simp [h]
    · rw [if_neg h, if_neg (by omega)]

theorem arrayStore_ackpol (sel : XSel) (i : Nat) (v : Byte) (s : State) : (arrayStore sel i v s).ackpol = s.ackpol := by
  rw [arrayStore_frame]

/-- The policy when the byte's first sample is taken: the last byte is not acknowledged (R146). -/
theorem lastAck_quiet (last : Bool) (s : State) : Quiet (s.ackpol && !last) s (lastAck last s) := by
  cases last
  · simpa [lastAck] using Quiet.refl s
  · simpa [lastAck] using luSetAck_quiet false s

/-- Every way one byte of a read can end (R146). -/
theorem dataByte_read_cases (sel : XSel) {l i : Nat} (b : Word) (s : State) (hi : i < arraySize sel) :
    ((dataByte .read sel l i b s).1 = .ok ∧ Fetched sel i 1 s (dataByte .read sel l i b s).2 ∧
      (dataByte .read sel l i b s).2.ackpol = (s.ackpol && !decide (i + 1 = l))) ∨
    ((dataByte .read sel l i b s).1 = .dataTimeout ∧
      Quiet (s.ackpol && !decide (i + 1 = l)) s (dataByte .read sel l i b s).2) := by
  simp only [dataByte_eq, dataPhase]
  generalize decide (i + 1 = l) = last
  have hq := (lastAck_quiet last s).trans (poll_quiet .rxReady false b _)
  unfold dataRx
  generalize poll .rxReady false b (lastAck last s) = p at hq ⊢
  obtain ⟨o, t⟩ := p
  have hread : Fetched sel i 1 s (setXidx (i + 1) (arrayStore sel i (nextRx t) (luRxRead t))) :=
    .between hq (arrayStore_fetched sel t hi) (setXidx_quiet (i + 1) _)
  have hack : (arrayStore sel i (nextRx t) (luRxRead t)).ackpol = (s.ackpol && !last) :=
    (arrayStore_ackpol _ _ _ _).trans hq.ackpol
  cases o
  case timeout => exact .inr ⟨rfl, hq.trans (failPlain_quiet .dataTimeout t)⟩
  all_goals exact .inl ⟨rfl, hread, hack⟩

/-- Every way the data loop of a read can end, with `n` bytes to go from index `i`: all are received, or it times out at
one of them. -/
theorem dataLoop_read_cases {sel : XSel} {l : Nat} (b : Word) (hl : l ≤ arraySize sel) {n i : Nat} (s : State)
    (hn : i + n = l) :
    ((dataLoop .read sel l b n i s).1 = .ok ∧ Fetched sel i n s (dataLoop .read sel l b n i s).2 ∧
      (0 < n → (dataLoop .read sel l b n i s).2.ackpol = false)) ∨
    ∃ k, k < n ∧ (dataLoop .read sel l b n i s).1 = .dataTimeout ∧
      Fetched sel i k s (dataLoop .read sel l b n i s).2 ∧
      (dataLoop .read sel l b n i s).2.ackpol = (s.ackpol && !decide (i + k + 1 = l)) := by
  induction n generalizing i s with
  | zero => exact .inl ⟨rfl, (Quiet.refl s).fetched sel i, nofun⟩
  | succ n ih =>
    rw [dataLoop]
    obtain ⟨hok, hf, hp⟩ | ⟨hto, hq⟩ := dataByte_read_cases sel (l := l) (i := i) b s (by omega)
    · rw [andThen_of_ok hok]
      generalize (dataByte .read sel l i b s).2 = t at hf hp ⊢
      have hlater : i + 1 + n = l := by omega
      obtain ⟨hok', hf', hp'⟩ | ⟨k, hk, hto', hf', hp'⟩ := ih t hlater
      · refine .inl ⟨hok', Nat.add_comm 1 n ▸ hf.trans hf', fun _ => ?_⟩
        cases n with
        | zero => simpa [dataLoop, hlater] using hp
        | succ n => exact hp' (Nat.succ_pos n)
      · refine .inr ⟨k + 1, by omega, hto', Nat.add_comm 1 k ▸ hf.trans hf', ?_⟩
        have hmore : ¬ i + 1 = l := by omega
        have hidx : i + 1 + k + 1 = i + (k + 1) + 1 := by omega
        rw [hp', hp, hidx]
        simp [hmore]
    · rw [andThen_of_ne (by rw [hto]; decide)]
      exact .inr ⟨0, Nat.succ_pos n, hto, hq.fetched sel i, hq.ackpol⟩

/-- Every outcome of a read transaction of `l` bytes (R151): what it received and stored, and the policy it leaves. -/
inductive ReadOutcome (sel : XSel) (l : Nat) (s : State) (r : Code × State) : Prop
  | received (hc : r.1 = .ok) (h : Fetched sel 0 l s r.2) (hp : r.2.ackpol = false)
  | stuck (hc : r.1 = .busStuck) (h : Quiet s.ackpol s r.2)
  | early (hc : r.1 = .startTimeout ∨ r.1 = .addressNack ∨ r.1 = .addressTimeout) (h : Quiet true s r.2)
  | late (k : Nat) (hk : k < l) (hc : r.1 = .dataTimeout) (h : Fetched sel 0 k s r.2)
    (hp : r.2.ackpol = decide (k + 1 ≠ l))

theorem xactPhases_read (a : BusAddr) {l : Byte} (b : Word) {sel : XSel} (s : State) (hpos : 0 < l.toNat)
    (hl : l.toNat ≤ arraySize sel) : ReadOutcome sel l.toNat s (xactPhases .read a l b sel s) := by
  unfold xactPhases
  have hq := waitBusFree_quiet b s
  obtain hok | ⟨hstuck, -⟩ := waitBusFree_code b s
  case inr =>
    rw [andThen_of_ne (by rw [hstuck]; decide)]
    exact .stuck hstuck hq
  rw [andThen_of_ok hok]
  generalize (waitBusFree b s).2 = s1 at hq ⊢
  have hq1 : Quiet true s (startPhase .read b s1).2 := hq.append (startPhase_quiet .read b s1)
  obtain hok | ⟨hto, -⟩ := startPhase_code .read b s1
  case inr =>
    rw [andThen_of_ne (by rw [hto]; decide)]
    exact .early (.inl hto) hq1
  rw [andThen_of_ok hok]
  generalize (startPhase .read b s1).2 = s2 at hq1 ⊢
  have hq2 := hq1.trans (addressPhase_quiet a .read b s2)
  obtain hok | ⟨hfail, -⟩ := addressPhase_code a .read b s2
  case inr =>
    rw [andThen_of_ne (by obtain h | h := hfail <;> rw [h] <;> decide)]
    exact .early (.inr hfail) hq2
  rw [andThen_of_ok hok]
  have hq3 := hq2.trans (estate_quiet .data _)
  generalize { (addressPhase a .read b s2).2 with estate := .data } = s3 at hq3 ⊢
  obtain ⟨hok, hf, hp⟩ | ⟨k, hk, hto, hf, hp⟩ := dataLoop_read_cases b hl s3 (Nat.zero_add l.toNat)
  · rw [andThen_of_ok hok]
    have hstop := stopPhase_quiet (dataLoop .read sel l.toNat b l.toNat 0 s3).2
    exact .received rfl (.between hq3 hf hstop) (hstop.ackpol.trans (hp hpos))
  · rw [andThen_of_ne (by rw [hto]; decide)]
    refine .late k hk hto (.between hq3 hf (.refl _)) ?_
    rw [hp, hq3.ackpol]
    simp

theorem ReadOutcome.between {sel : XSel} {l : Nat} {s s' : State} {r r' : Code × State} (h : Quiet s.ackpol s s')
    (hr : ReadOutcome sel l s' r) (hc : r'.1 = r.1) (h' : Quiet r.2.ackpol r.2 r'.2) : ReadOutcome sel l s r' := by
  cases hr with
  | received hok hf hp => exact .received (hc.trans hok) (.between h hf h') (h'.ackpol.trans hp)
  | stuck hstuck hq => exact .stuck (hc.trans hstuck) (h.ackpol ▸ (h.append hq).trans h')
  | early hfail hq => exact .early (hc ▸ hfail) ((h.append hq).trans h')
  | late k hk hto hf hp => exact .late k hk (hc.trans hto) (.between h hf h') (h'.ackpol.trans hp)

theorem xact_read_outcome (a : BusAddr) {l : Byte} (b : Word) {sel : XSel} (s : State) (hpos : 0 < l.toNat)
    (hl : l.toNat ≤ arraySize sel) : ReadOutcome sel l.toNat s (xact .read a l b sel s) := by
  have hlatch : Quiet s.ackpol s (latchXact .read a l b sel s) := quiet_of_wire_eq rfl
  exact .between hlatch (xactPhases_read a b _ hpos hl) rfl (quiet_of_wire_eq rfl)

end Sys2Proof.Proofs
end


section
/-! ## Proofs: what MEASURE receives, the reading it shows and the policy it leaves (R38, R54, R171 to R180) -/

open Sys2Proof Sys2Proof.Machine Sys2Proof.Safety

namespace Sys2Proof.Proofs

/-! ### Recovery receives nothing (R131) -/

theorem pinScl_quiet (v : Bool) (s : State) : Quiet s.ackpol s (pinScl v s) :=
  (emit_quiet (e := .scl v) rfl s).trans (quiet_of_wire_eq rfl)

theorem clockPulse_quiet (k : Nat) (s : State) : Quiet s.ackpol s (clockPulse k s) :=
  have hpulse : Quiet s.ackpol s { s with pulse := BitVec.ofNat 4 k } := quiet_of_wire_eq rfl
  (((hpulse.trans (pinScl_quiet false _)).trans (emit_quiet rfl _)).trans (pinScl_quiet true _)).trans
    (emit_quiet rfl _)

theorem clockPulses_quiet (n k : Nat) (s : State) : Quiet s.ackpol s (clockPulses n k s) := by
  induction n generalizing k s with
  | zero => exact .refl s
  | succ n ih => exact (clockPulse_quiet k s).trans (ih (k + 1) _)

theorem runForceClear_quiet (s : State) : Quiet s.ackpol s (runForceClear s) := by
  have htake : Quiet s.ackpol s (takePins s) :=
    (emit_quiet (e := .pinDrv true true) rfl s).trans (quiet_of_wire_eq rfl)
  have hsettle (v : State) : Quiet v.ackpol v (settlePins v) :=
    (emit_quiet (e := .dly Config.tClearSettle) rfl v).trans (quiet_of_wire_eq rfl)
  exact (htake.trans (clockPulses_quiet Config.nPulses 1 _)).trans (hsettle _)

theorem runForceClear_payValid (s : State) : (runForceClear s).payValid = s.payValid := by
  obtain ⟨pulse, sclO, trace, h⟩ := clockPulses_frame Config.nPulses 1 (takePins s)
  rw [runForceClear, h]
  rfl

/-! ### The stages of MEASURE (R171) -/

theorem xact_payValid (d : Dir) (a : BusAddr) (l : Byte) (b : Word) (sel : XSel) (s : State) :
    (xact d a l b sel s).2.payValid = s.payValid :=
  (xactPhases_engine d a l b sel (latchXact d a l b sel s)).payValid

/-- The reading registers show the payload in PAY, calibrated (R175 to R180). -/
def ShowsPayload (t : State) : Prop :=
  t.statusCode = payloadStatus t.pay ∧ t.statusCode ≠ .notReady ∧ t.humRaw = payloadHumRaw t.pay ∧
    t.tempRaw = payloadTempRaw t.pay ∧ t.humPct = numHum t.humRaw ∧ t.tempC = clampTemp (numTemp t.tempRaw)

/-- The policy a failed read of MEASURE leaves, by its code and the number of bytes received (R54, R143, R146). -/
def policyAfterRead (c : Code) (n : Nat) (before : Bool) : Bool :=
  match c with
  | .busStuck => before
  | .dataTimeout => decide (n ≠ 3)
  | _ => true

/-- Every outcome of MEASURE from `s`, just accepted: its result, what it received and stored, the policy it leaves. -/
inductive MeasureOutcome (s : State) (out : Result × State) : Prop
  | triggerFailed (c : Code) (hc : c ≠ .ok) (hr : out.1 = ⟨c, .trigger, 0#8⟩) (hv : out.2.payValid = false)
    (h : Quiet s.ackpol s out.2)
  | readFailed (c : Code) (n : Nat) (hn : n < 4) (hc : c ≠ .ok) (hr : out.1 = ⟨c, .read, 0#8⟩)
    (hv : out.2.payValid = false) (h : Fetched .pay 0 n s out.2) (hp : out.2.ackpol = policyAfterRead c n s.ackpol)
  | received (hr : out.1 = ⟨.notReady, .decode, 0#8⟩ ∨ out.1 = okResult ∧ ShowsPayload out.2)
    (hv : out.2.payValid = true) (h : Fetched .pay 0 4 s out.2) (hp : out.2.ackpol = false)

theorem MeasureOutcome.prepend {s s' : State} {out : Result × State} (h : Quiet s.ackpol s s')
    (ho : MeasureOutcome s' out) : MeasureOutcome s out := by
  cases ho with
  | triggerFailed c hc hr hv hq => exact .triggerFailed c hc hr hv (h.ackpol ▸ h.append hq)
  | readFailed c n hn hc hr hv hf hp =>
    exact .readFailed c n hn hc hr hv (.between h hf (.refl _)) (h.ackpol ▸ hp)
  | received hr hv hf hp => exact .received hr hv (.between h hf (.refl _)) hp

theorem decodePayload_quiet (s : State) : Quiet s.ackpol s (decodePayload s).2 := by
  obtain ⟨-, -, h⟩ | ⟨-, -, h⟩ := decodePayload_cases s <;> rw [h] <;> exact quiet_of_wire_eq rfl

/-- The decode of the payload in PAY: refused as not ready, or shown. -/
theorem decodePayload_shows (s : State) :
    (decodePayload s).2.payValid = true ∧
      ((decodePayload s).1 = ⟨.notReady, .decode, 0#8⟩ ∨
        (decodePayload s).1 = okResult ∧ ShowsPayload (decodePayload s).2) := by
  obtain ⟨-, hr, h⟩ | ⟨hne, hr, h⟩ := decodePayload_cases s <;> rw [hr, h]
  · exact ⟨rfl, .inl rfl⟩
  · exact ⟨rfl, .inr ⟨rfl, rfl, hne, rfl, rfl, rfl, rfl⟩⟩

theorem readStage_of_ok {s : State} (h : (readXact s).1 = .ok) : readStage s = decodePayload (readXact s).2 := by
  unfold readStage
  dsimp only
  split
  · rfl
  · exact absurd h ‹_›

theorem readStage_of_ne {s : State} (h : (readXact s).1 ≠ .ok) :
    readStage s = failMeasure (readXact s).1 .read (dly Config.tRecoverSettle (runForceClear (readXact s).2)) := by
  unfold readStage
  dsimp only
  split
  · exact absurd ‹_› h
  · rfl

theorem recovery_quiet (s : State) :
    Quiet s.ackpol s { dly Config.tRecoverSettle (runForceClear s) with dstate := .failed } :=
  ((runForceClear_quiet s).trans (emit_quiet (e := .dly Config.tRecoverSettle) rfl _)).trans (quiet_of_wire_eq rfl)

/-- Stage 3 of MEASURE (R174). -/
theorem readStage_outcome {s : State} (hv : s.payValid = false) : MeasureOutcome s (readStage s) := by
  have hx : ReadOutcome .pay 4 s (readXact s) :=
    xact_read_outcome Config.sensorAddr (l := Config.payloadLen) s.opLong (sel := .pay) s (by decide) (by decide)
  have hv' : (runForceClear (readXact s).2).payValid = false :=
    (runForceClear_payValid _).trans ((xact_payValid _ _ _ _ _ s).trans hv)
  have hrec := recovery_quiet (readXact s).2
  cases hx with
  | received hok hf hp =>
    rw [readStage_of_ok hok]
    obtain ⟨hv, hr⟩ := decodePayload_shows (readXact s).2
    have hq := decodePayload_quiet (readXact s).2
    exact .received hr hv (.between (.refl s) hf hq) (hq.ackpol.trans hp)
  | stuck hc hq =>
    rw [readStage_of_ne (by rw [hc]; decide), hc]
    have hall := hq.trans hrec
    exact .readFailed .busStuck 0 (by decide) nofun rfl hv' (hall.fetched .pay 0) hall.ackpol
  | early hc hq =>
    have hne : (readXact s).1 ≠ .ok := by obtain h | h | h := hc <;> rw [h] <;> decide
    have hpol : policyAfterRead (readXact s).1 0 s.ackpol = true := by obtain h | h | h := hc <;> rw [h] <;> rfl
    have hall := hq.trans hrec
    rw [readStage_of_ne hne]
    exact .readFailed _ 0 (by decide) hne rfl hv' (hall.fetched .pay 0) (hall.ackpol.trans hpol.symm)
  | late k hk hc hf hp =>
    rw [readStage_of_ne (by rw [hc]; decide), hc]
    refine .readFailed .dataTimeout k hk nofun rfl hv' (.between (.refl s) hf hrec) (hrec.ackpol.trans (hp.trans ?_))
    simp [policyAfterRead]

theorem runMeasure_of_ok {s : State} (h : (triggerXact (beginMeasure s)).1 = .ok) :
    runMeasure s = readStage
      { dly Config.tConv { (triggerXact (beginMeasure s)).2 with dstate := .await } with dstate := .reading } := by
  unfold runMeasure
  dsimp only
  split
  · rfl
  · exact absurd h ‹_›

theorem runMeasure_of_ne {s : State} (h : (triggerXact (beginMeasure s)).1 ≠ .ok) :
    runMeasure s = failMeasure (triggerXact (beginMeasure s)).1 .trigger (triggerXact (beginMeasure s)).2 := by
  unfold runMeasure
  dsimp only
  split
  · exact absurd ‹_› h
  · rfl

theorem runMeasure_outcome (s : State) : MeasureOutcome s (runMeasure s) := by
  have hbegin : Quiet s.ackpol s (beginMeasure s) := quiet_of_wire_eq rfl
  have hq : Quiet s.ackpol s (triggerXact (beginMeasure s)).2 := hbegin.trans (xact_write_quiet _ _ _ _ _)
  have hv : (triggerXact (beginMeasure s)).2.payValid = false := xact_payValid _ _ _ _ _ (beginMeasure s)
  by_cases hok : (triggerXact (beginMeasure s)).1 = .ok
  · rw [runMeasure_of_ok hok]
    generalize (triggerXact (beginMeasure s)).2 = t at hq hv ⊢
    have hwait : Quiet t.ackpol t { dly Config.tConv { t with dstate := .await } with dstate := .reading } :=
      (emit_quiet (e := .dly Config.tConv) rfl t).trans (quiet_of_wire_eq rfl)
    have hread := readStage_outcome
      (s := { dly Config.tConv { t with dstate := .await } with dstate := .reading }) hv
    exact hread.prepend (hq.trans hwait)
  · rw [runMeasure_of_ne hok]
    exact .triggerFailed _ hok rfl hv (hq.trans (quiet_of_wire_eq rfl))

/-! ### The statements -/

/-- The state in which MEASURE starts, just accepted (R197). -/
def measuring (s : State) : State := acceptCommand .measure (takeWord (encode .measure) s)

theorem exec_measure {s : State} (h : Accepts .measure s) :
    exec .measure s = .next (complete (runMeasure (measuring s)).1 (runMeasure (measuring s)).2) := by
  obtain ⟨hb, hc, ho⟩ := h
  rw [exec_eq_command, command_blocks .measure (operation .measure) (onAccept .measure) s hb ho hc]
  rfl

/-- The events of a command between its brackets, and the bytes received among them. -/
theorem Received.events {n : Nat} {s : State} {out : Result × State} (h : Received n (measuring s) out.2) :
    ∃ evs, (complete out.1 out.2).trace = s.trace ++ [.cmd 0x40000000#32] ++ evs ++ [.ret out.1] ∧
      rxBytes evs = (List.range n).map (rxAhead s) := by
  obtain ⟨evs, htrace, hrx⟩ := h.trace
  exact ⟨evs, congrArg (· ++ [Event.ret out.1]) htrace, hrx⟩

theorem payload_of_fetched {s t : State} (h : Fetched .pay 0 4 s t) :
    (List.range 4).map (rxAhead s) = [t.pay.b0, t.pay.b1, t.pay.b2, t.pay.b3] := by
  have hbyte (j : Nat) (hj : j < 4) : payGet t.pay j = rxAhead s j := by
    have hs := h.stored j hj
    rwa [if_pos ⟨Nat.zero_le j, by omega⟩] at hs
  simp [List.range_succ, ← hbyte, payGet]

/-- Settles O35: PAY holds what the read received, and the reading is what its four bytes decode to. -/
theorem measureReadingIsThePayload : Obligations.MeasureReadingIsThePayload := by
  intro s hs
  rw [exec_measure hs]
  have ho := runMeasure_outcome (measuring s)
  generalize runMeasure (measuring s) = out at ho ⊢
  obtain ⟨r, v⟩ := out
  cases ho with
  | triggerFailed c hc hr hv hq =>
    obtain rfl : r = _ := hr
    obtain ⟨evs, htrace, -⟩ := hq.received.events (out := (_, v))
    refine ⟨_, evs, rfl, htrace, ?_, fun _ => ⟨hq.pay, hv⟩, nofun, fun h => absurd h hc⟩
    rintro (h | h) <;> cases h
  | readFailed c n hn hc hr hv hf hp =>
    obtain rfl : r = _ := hr
    obtain ⟨evs, htrace, hrx⟩ := hf.received.events (out := (_, v))
    have hlen : (rxBytes evs).length = n := by simp [hrx]
    refine ⟨_, evs, rfl, htrace, ?_, nofun, fun _ => ⟨hv, hlen ▸ hn, fun k hk => ?_⟩, fun h => absurd h hc⟩
    · rintro (h | h) <;> cases h
    · have hbyte := hf.stored k hk
      simp only [Nat.zero_le, true_and, Nat.zero_add, Nat.sub_zero] at hbyte
      rw [hlen]
      exact hbyte
  | received hr hv hf hp =>
    obtain ⟨evs, htrace, hrx⟩ := hf.received.events (out := (r, v))
    have hpay := payload_of_fetched hf
    refine ⟨_, evs, rfl, htrace, fun _ => ⟨hrx.trans hpay, hrx, hv⟩, fun h => ?_, fun h => ?_, fun h => ?_⟩
    · obtain rfl | ⟨rfl, -⟩ := hr <;> cases h
    · obtain rfl | ⟨rfl, -⟩ := hr <;> cases h
    · obtain rfl | ⟨-, hshow⟩ := hr
      · cases h
      · exact hshow

/-- Settles O58: the trigger keeps the policy; a read sets it at its start condition and clears it at its last byte. -/
theorem measureLeavesTheAckPolicy : Obligations.MeasureLeavesTheAckPolicy := by
  intro s hs
  rw [exec_measure hs]
  have ho := runMeasure_outcome (measuring s)
  generalize runMeasure (measuring s) = out at ho ⊢
  obtain ⟨r, v⟩ := out
  cases ho with
  | triggerFailed c hc hr hv hq =>
    obtain rfl : r = _ := hr
    obtain ⟨evs, htrace, -⟩ := hq.received.events (out := (_, v))
    exact ⟨_, evs, rfl, htrace, hq.ackpol⟩
  | readFailed c n hn hc hr hv hf hp =>
    obtain rfl : r = _ := hr
    obtain ⟨evs, htrace, hrx⟩ := hf.received.events (out := (_, v))
    have hlen : (rxBytes evs).length = n := by simp [hrx]
    refine ⟨_, evs, rfl, htrace, ?_⟩
    rw [hlen]
    cases c <;> exact hp
  | received hr hv hf hp =>
    obtain ⟨evs, htrace, -⟩ := hf.received.events (out := (r, v))
    refine ⟨_, evs, rfl, htrace, ?_⟩
    obtain rfl | ⟨rfl, -⟩ := hr <;> exact hp

end Sys2Proof.Proofs
end

section
/-! ## Proofs: the fields of the HOST's registers (R26 to R42, R59) -/

open Sys2Proof Sys2Proof.Machine Sys2Proof.Safety

namespace Sys2Proof.Proofs

/-! ### Bits of a composed register -/

theorem getLsbD_bitAt (n k : Nat) (b : Bool) : (bitAt n b).getLsbD k = (decide (k < 32) && decide (k = n) && b) := by
  simp only [bitAt, BitVec.getLsbD_shiftLeft, BitVec.getLsbD_setWidth, BitVec.getLsbD_ofBool]
  grind

theorem getLsbD_fieldAt {w : Nat} (n k : Nat) (v : BitVec w) :
    (fieldAt n v).getLsbD k = (decide (k < 32) && decide (n ≤ k) && v.getLsbD (k - n)) := by
  simp only [fieldAt, BitVec.getLsbD_shiftLeft, BitVec.getLsbD_setWidth]
  grind

theorem statusWord_bit (s : State) (k : Nat) (hk : k < 32) : (statusWord s).getLsbD k =
    if k = 0 then s.busy else if k = 1 then s.done else if k = 2 then s.desync else if k = 3 then s.pinOvr
    else if k = 4 then s.cmdOvr else if k = 5 then s.ackpol else if k < 8 then false
    else if k < 12 then s.opcur.getLsbD (k - 8) else if k < 16 then (estateBits s.estate).getLsbD (k - 12)
    else if k < 20 then (dstateBits s.dstate).getLsbD (k - 16)
    else if k < 22 then (rstateBits s.rstate).getLsbD (k - 20) else false := by
  simp only [statusWord, BitVec.getLsbD_or, getLsbD_bitAt, getLsbD_fieldAt, hk]
  interval_cases k <;> simp [BitVec.getLsbD_of_ge]

theorem extractLsb'_eq_of_bits {w lo n : Nat} {x : BitVec w} {v : BitVec n}
    (h : ∀ j, j < n → x.getLsbD (lo + j) = v.getLsbD j) : x.extractLsb' lo n = v :=
  BitVec.eq_of_getLsbD_eq fun j hj => by simp [hj, h j hj]

/-! ### STATUS (R28) -/

theorem statusWord_opcur (s : State) : (statusWord s).extractLsb' 8 4 = s.opcur :=
  extractLsb'_eq_of_bits fun j hj => by rw [statusWord_bit s _ (by omega)]; interval_cases j <;> rfl

theorem statusWord_estate (s : State) : (statusWord s).extractLsb' 12 4 = estateBits s.estate :=
  extractLsb'_eq_of_bits fun j hj => by rw [statusWord_bit s _ (by omega)]; interval_cases j <;> rfl

theorem statusWord_dstate (s : State) : (statusWord s).extractLsb' 16 4 = dstateBits s.dstate :=
  extractLsb'_eq_of_bits fun j hj => by rw [statusWord_bit s _ (by omega)]; interval_cases j <;> rfl

theorem statusWord_rstate (s : State) : (statusWord s).extractLsb' 20 2 = rstateBits s.rstate :=
  extractLsb'_eq_of_bits fun j hj => by rw [statusWord_bit s _ (by omega)]; interval_cases j <;> rfl

theorem statusWord_reserved (s : State) :
    (statusWord s).extractLsb' 6 2 = 0#2 ∧ (statusWord s).extractLsb' 22 10 = 0#10 := by
  constructor <;> refine extractLsb'_eq_of_bits fun j hj => ?_ <;> rw [statusWord_bit s _ (by omega)] <;>
    interval_cases j <;> rfl

/-- Settles O15: each bit of STATUS is the bit of the one field that stands there. -/
theorem statusFieldsStandWhereTheyShould : Obligations.StatusFieldsStandWhereTheyShould := by
  intro s
  obtain ⟨hlow, hhigh⟩ := statusWord_reserved s
  have hbit := statusWord_bit s
  rw [statusWord_opcur, statusWord_estate, statusWord_dstate, statusWord_rstate]
  refine ⟨hbit 0 (by decide), hbit 1 (by decide), hbit 2 (by decide), hbit 3 (by decide), hbit 4 (by decide),
    hbit 5 (by decide), hlow, rfl, rfl, rfl, rfl, hhigh, rfl, ?_, ?_, ?_⟩
  · cases s.estate <;> rfl
  · cases s.dstate <;> rfl
  · cases s.rstate <;> rfl

/-! ### RESULT (R29, R210) -/

theorem resultWord_bit (r : Result) (k : Nat) (hk : k < 32) : (resultWord r).getLsbD k =
    if k < 4 then (codeBits r.code).getLsbD k else if k < 7 then (stageBits r.stage).getLsbD (k - 4)
    else if k < 8 then false else if k < 16 then r.idx.getLsbD (k - 8) else false := by
  simp only [resultWord, BitVec.getLsbD_or, getLsbD_fieldAt, hk]
  interval_cases k <;> simp [BitVec.getLsbD_of_ge]

theorem resultWord_code (r : Result) : (resultWord r).extractLsb' 0 4 = codeBits r.code :=
  extractLsb'_eq_of_bits fun j hj => by rw [resultWord_bit r _ (by omega)]; interval_cases j <;> rfl

theorem resultWord_stage (r : Result) : (resultWord r).extractLsb' 4 3 = stageBits r.stage :=
  extractLsb'_eq_of_bits fun j hj => by rw [resultWord_bit r _ (by omega)]; interval_cases j <;> rfl

theorem resultWord_idx (r : Result) : (resultWord r).extractLsb' 8 8 = r.idx :=
  extractLsb'_eq_of_bits fun j hj => by rw [resultWord_bit r _ (by omega)]; interval_cases j <;> rfl

theorem resultWord_reserved (r : Result) : (resultWord r).extractLsb' 16 16 = 0#16 :=
  extractLsb'_eq_of_bits fun j hj => by rw [resultWord_bit r _ (by omega)]; interval_cases j <;> rfl

/-! ### RD_STATUS, PAYLOAD, PRESENT and PINS (R33, R38, R40, R41) -/

theorem rdStatusWord_valid (free : Word) (s : State) : (rdStatusWord free s).getLsbD 0 = s.rdValid := by
  rw [rdStatusWord, BitVec.getLsbD_or, getLsbD_bitAt, getLsbD_fieldAt]
  simp

theorem rdStatusWord_code (free : Word) {s : State} (h : s.rdValid = true) :
    (rdStatusWord free s).extractLsb' 1 2 = statusCodeBits s.statusCode := by
  refine extractLsb'_eq_of_bits fun j hj => ?_
  rw [rdStatusWord, statusCodeSpecified, h, BitVec.getLsbD_or, getLsbD_bitAt, getLsbD_fieldAt]
  interval_cases j <;> simp

theorem rdStatusWord_reserved (free : Word) (s : State) : (rdStatusWord free s).extractLsb' 3 29 = 0#29 := by
  refine extractLsb'_eq_of_bits fun j hj => ?_
  rw [rdStatusWord, BitVec.getLsbD_or, getLsbD_bitAt, getLsbD_fieldAt]
  interval_cases j <;> simp [BitVec.getLsbD_of_ge]

theorem payloadWord_byte (p : Payload) (k : Nat) (hk : k < 4) :
    (payloadWord p).extractLsb' (8 * k) 8 = payGet p k := by
  refine extractLsb'_eq_of_bits fun j hj => ?_
  simp only [payloadWord, BitVec.getLsbD_or, getLsbD_fieldAt]
  interval_cases k <;> interval_cases j <;> simp [payGet, BitVec.getLsbD_of_ge]

theorem presentWord_bit (k j : Nat) (s : State) (hj : j < 32) :
    (presentWord k s).getLsbD j = s.present.getLsbD (32 * k + j) := by
  simp [presentWord, hj]

theorem pinsWord_bit (s : State) (k : Nat) :
    (pinsWord s).getLsbD k = if k = 0 then s.sclO else if k = 1 then s.sdaO else false := by
  rw [pinsWord, BitVec.getLsbD_or, getLsbD_bitAt, getLsbD_bitAt]
  grind

/-! ### The registers at their offsets (R26, R42) -/

theorem offBuf_toNat {i : Nat} (hi : i < Config.bufSize) : (offBuf i).toNat = 0x100 + 4 * i := by
  have hsize : Config.bufSize = 32 := rfl
  rw [offBuf, BitVec.toNat_ofNat, Nat.mod_eq_of_lt (by omega)]

theorem bufIndex_offBuf {i : Nat} (hi : i < Config.bufSize) : bufIndex (offBuf i) = some i := by
  rw [bufIndex, offBuf_toNat hi, if_pos (by omega)]
  congr 1
  omega

/-- Every register with an offset of its own stands below BUF. -/
theorem registerValue_offBuf (free : Word) (s : State) {i : Nat} (hi : i < Config.bufSize) :
    registerValue free (offBuf i) s = fieldAt 0 (bufByte s i) := by
  have hne (off : Offset) (h : off.toNat < 0x100) : ¬ offBuf i = off := fun he => by
    have := offBuf_toNat hi
    rw [he] at this
    omega
  simp (disch := decide) only [registerValue, hne, if_false]
  rw [bufIndex_offBuf hi]

theorem registerValue_present (free : Word) (s : State) {k : Nat} (hk : k < 4) :
    registerValue free (BitVec.ofNat 12 (0x034 + 4 * k)) s = presentWord k s := by
  interval_cases k <;> rfl

theorem fieldAt_zero_toNat {w : Nat} (v : BitVec w) (h : w ≤ 32) : (fieldAt 0 v).toNat = v.toNat := by
  have hlt : v.toNat < 2 ^ 32 := v.isLt.trans_le (Nat.pow_le_pow_right (by decide) h)
  rw [fieldAt, BitVec.shiftLeft_zero, BitVec.toNat_setWidth, Nat.mod_eq_of_lt hlt]

/-- What a reading register shows while RD_VALID = 1 (R34 to R37). -/
theorem registerValue_reading (free : Word) {s : State} (h : s.rdValid = true) :
    registerValue free offHumRaw s = fieldAt 0 s.humRaw ∧ registerValue free offTempRaw s = fieldAt 0 s.tempRaw ∧
      registerValue free offHumPct s = s.humPct ∧ registerValue free offTempC s = s.tempC := by
  simp [registerValue, h, offCmd, offStatus, offResult, offTbudget, offTbShort, offTbLong, offRdStatus, offHumRaw,
    offTempRaw, offHumPct, offTempC]

theorem registerValue_payload (free : Word) {s : State} (h : s.payValid = true) :
    registerValue free offPayload s = payloadWord s.pay := by
  have hshown : registerValue free offPayload s = if s.payValid then payloadWord s.pay else free := rfl
  rw [hshown, if_pos h]

/-- Settles O16: each register is the composed word of its fields, and each field stands at its bits. -/
theorem resultRegistersShowTheirFields : Obligations.ResultRegistersShowTheirFields := by
  intro free s
  have hrd : registerValue free offRdStatus s = rdStatusWord free s := rfl
  have hpins : registerValue free offPins s = pinsWord s := rfl
  have hcount : registerValue free offScanCount s = fieldAt 0 s.count := rfl
  rw [resultWord_code, resultWord_stage, hrd, hpins, hcount]
  refine ⟨rfl, rfl, ?code, ?stage, ?statusCode, ?buf, rfl, rfl, ?zero, resultWord_idx _, resultWord_reserved _,
    rdStatusWord_valid free s, rdStatusWord_code free, rdStatusWord_reserved free s, ?reading, ?payload, ?count,
    ?present, pinsWord_bit s 0, pinsWord_bit s 1, ?pins⟩
  case code => cases s.result.code <;> rfl
  case stage => cases s.result.stage <;> rfl
  case statusCode =>
    intro h
    rw [rdStatusWord_code free h]
    cases s.statusCode <;> rfl
  case buf =>
    intro i hi
    rw [registerValue_offBuf free s hi, fieldAt_zero_toNat _ (by decide)]
  case zero => exact resultWord_bit s.result 7 (by decide)
  case reading =>
    intro h
    obtain ⟨hhum, htemp, hpct, hc⟩ := registerValue_reading free h
    rw [hhum, htemp]
    exact ⟨fieldAt_zero_toNat _ (by decide), fieldAt_zero_toNat _ (by decide), hpct, hc⟩
  case payload =>
    intro h k hk
    rw [registerValue_payload free h, payloadWord_byte s.pay k hk]
  case count => exact fieldAt_zero_toNat _ (by decide)
  case present =>
    intro a ha
    rw [registerValue_present free s (by omega : a / 32 < 4), presentWord_bit _ _ s (by omega), Nat.div_add_mod]
  case pins =>
    refine extractLsb'_eq_of_bits fun j _ => ?_
    rw [pinsWord_bit, if_neg (by omega), if_neg (by omega), BitVec.getLsbD_zero]

/-- A reading register that holds no reading shows a free value of its width (R34 to R37, U7). -/
theorem registerValue_noReading (free : Word) {s : State} (h : s.rdValid = false) :
    registerValue free offHumRaw s = (free.setWidth 14).setWidth 32 ∧
      registerValue free offTempRaw s = (free.setWidth 14).setWidth 32 ∧ registerValue free offHumPct s = free ∧
      registerValue free offTempC s = free := by
  simp [registerValue, h, fieldAt, offCmd, offStatus, offResult, offTbudget, offTbShort, offTbLong, offRdStatus,
    offHumRaw, offTempRaw, offHumPct, offTempC]

/-- Settles O17: each read is the register's field in the state after reset. -/
theorem resetIsTheTable : Obligations.ResetIsTheTable := by
  intro free
  obtain ⟨hhum, htemp, hpct, hc⟩ := registerValue_noReading free (s := State.reset) rfl
  have hrd : registerValue free offRdStatus State.reset = 0#32 := by
    have hspecified : statusCodeSpecified State.reset = true := rfl
    change rdStatusWord free State.reset = 0#32
    rw [rdStatusWord, if_pos hspecified]
    rfl
  exact ⟨rfl, rfl, rfl, rfl, rfl, rfl, hrd, rfl, rfl, rfl, rfl, rfl, rfl, hpct, hc, rfl, hhum, htemp, fun _ => rfl, rfl,
    rfl, rfl⟩

end Sys2Proof.Proofs
end

section
/-! ## Proofs: the HOST's accesses to an idle block, and BUF (R72, R78, R83, R113) -/

open Sys2Proof Sys2Proof.Machine Sys2Proof.Safety

namespace Sys2Proof.Proofs

/-! ### Misaligned accesses (R78) -/

theorem aligned_eq_false {off : Offset} (h : off.toNat % 4 ≠ 0) : aligned off = false := by simp [aligned, h]

/-- Settles O14: HRD and HWR look at the alignment before anything else. -/
theorem misalignedAccessIsRefused : Obligations.MisalignedAccessIsRefused := by
  intro off v s h
  simp [hrd, hwr, aligned_eq_false h]

/-! ### Turns of the CORE (R83, R113) -/

theorem coreTurn_idle {s : State} (h : s.busy = false) : coreTurn s = .next s := by simp [coreTurn, h]

theorem coreTurn_busy {s : State} (h : s.busy = true) : coreTurn s = coreStep s := by simp [coreTurn, h]

theorem input_wait_busy (rest : List Input) {s : State} (h : s.busy = true) : input .wait rest s = coreStep s := by
  simp [input, h]

theorem hostValue_status_idle {s : State} (h : s.busy = false) : hostValue offStatus s = statusWord s := by
  rw [hostValue, if_neg (by simp [h])]
  rfl

/-- What ends a WAIT: one read of STATUS (R113, R195). -/
theorem input_wait_idle (rest : List Input) {s : State} (h : s.busy = false) :
    input .wait rest s =
      .next { s with inbox := rest, reads := s.reads ++ [(offStatus, statusWord s)], draws := s.draws + 1 } := by
  have hvalue : hostValue offStatus (withInbox rest s) = statusWord s := hostValue_status_idle h
  have hread : input .wait rest s = .next (hostRead offStatus (withInbox rest s)) := if_neg (by simp [h])
  rw [hread, hostRead, hvalue]
  rfl

theorem coreStep_inbox {s t : State} (h : coreStep s = .next t) : t.inbox = s.inbox := by
  obtain ⟨e, -, -, ho⟩ | ⟨r, -, ho⟩ := primitive_of_coreStep h <;> exact congrArg Outline.inbox ho

/-- Settles O56: with no input, YIELD or WAIT the CORE has the turn, and it takes one while BUSY = 1 only. -/
theorem idleBlockTakesNoStep : Obligations.IdleBlockTakesNoStep := by
  intro s rest
  refine ⟨fun hb hi => ?_, fun hb hi => ?_, fun hb hi => ?_, fun hb hi => ?_, fun hb hi => ?_, fun hb hi => ?_⟩
  · rw [step_nil s hi, coreTurn_idle hb]
  · rw [step_cons s _ _ hi]
    exact coreTurn_idle hb
  · rw [step_cons s _ _ hi, input_wait_idle rest hb]
  · rw [step_nil s hi, coreTurn_busy hb]
  · rw [step_cons s _ _ hi]
    exact coreTurn_busy hb
  · rw [step_cons s _ _ hi, input_wait_busy rest hb]
    exact ⟨rfl, fun t ht => (coreStep_inbox ht).trans hi⟩

/-! ### BUF (R72, R150) -/

theorem decodePayload_buf (s : State) : (decodePayload s).2.buf = s.buf := by
  obtain ⟨-, -, h⟩ | ⟨-, -, h⟩ := decodePayload_cases s <;> rw [h]

theorem notePresent_buf (c : Code) (s : State) : (notePresent c s).buf = s.buf := by
  obtain ⟨present, count, h⟩ := notePresent_frame c s
  rw [h]

theorem afterXact_buf {c : Code} {v t : State} (h : AfterXact c v t) : t.buf = v.buf := by
  cases h with
  | received => exact decodePayload_buf { v with xcode := c }
  | probed | scanned => exact notePresent_buf c { v with xcode := c }
  | triggered | triggerFailed | readFailed | answered => rfl

/-- Only a transaction writes BUF, and it stores existing bytes. -/
theorem coreStep_keepsBuffer {s t : State} (h : CoreStep s t) (hs : BufferInv s) : BufferInv t := by
  cases h with
  | first i => cases i <;> exact hs
  | moves t hx h => exact h.frame.wf hs
  | ends c v t h ha =>
    unfold BufferInv
    rw [afterXact_buf ha]
    exact h.frame.wf hs
  | _ => exact hs

/-- Settles O48: besides a transaction only the HOST's writes touch BUF, and a reset empties it. -/
theorem bufferStaysCanonical : Obligations.BufferStaysCanonical := by
  intro s t hs h
  refine step_keeps (P := BufferInv) ?host ?reset ?refuse ?accept ?core h hs
  case host =>
    rintro s _ ⟨_, _, _, _, _, _, _, _, hwf⟩ hs
    exact hwf hs
  case reset => exact fun s => wf_reset
  case refuse => exact fun w s _ hs => hs
  case accept =>
    intro i s _ _ hs
    cases i <;> exact hs
  case core => exact fun s t _ h hs => coreStep_keepsBuffer (coreStep_cases h) hs

end Sys2Proof.Proofs
end

section
/-! ## Proofs: the shape of TRACE (R88, R89)

`TraceFits` is `TraceInv` without the position. Where the automaton owes no event (`Settled`), a part of the CORE's step
appends one event of its own and leaves the CORE at a position that fits it: one lemma per part. -/

open Sys2Proof Sys2Proof.Machine Sys2Proof.Safety

namespace Sys2Proof.Proofs

/-! ### The automaton and the block -/

/-- The automaton's state `st` fits the CORE's position (R89). -/
def FitsPosition (u : Upc) (st : TraceState) : Prop :=
  match u with
  | .adSmp (some .nack) => st.owed = [] ∧ ∃ f, st.last = some (.smp f) ∧ f.nack = true
  | .txSmp (some .nack) => st.owed = [] ∧ ∃ f, st.last = some (.smp f) ∧ f.nack = true
  | .rxSmp (some _) => st.owed = [] ∧ ∃ f, st.last = some (.smp f) ∧ f.rxrdy = true
  | .nkClear => st.owed = [.stop, .dly Config.tNackSettle]
  | .nkStop => st.owed = [.dly Config.tNackSettle]
  | .fcDrive => st.owed = [] ∧ st.pinned = true
  | .fcLow => st.owed = [] ∧ st.pinned = true
  | .fcLowDly => st.owed = [] ∧ st.pinned = true
  | .fcHigh => st.owed = [] ∧ st.pinned = true
  | .fcHighDly => st.owed = [] ∧ st.pinned = true
  | _ => st.owed = []

/-- The automaton accepts TRACE, and in the state `st` it ends in it agrees with BUSY and PIN_OVR. -/
def TraceEndsIn (s : State) (st : TraceState) : Prop :=
  traceRun .start s.trace = some st ∧ st.inCmd = s.busy ∧ st.pinned = s.pinOvr

def TraceFits (s : State) : Prop :=
  s.xcode ≠ .illegalCommand ∧ ∃ st, TraceEndsIn s st ∧ FitsPosition s.upc st

theorem traceInv_iff (s : State) : TraceInv s ↔ PositionInv s ∧ TraceFits s := by
  simp only [TraceFits, TraceEndsIn, and_assoc]
  rfl

/-- The positions inside a NACK exit, where the automaton owes the stop and the delay. -/
def inNackExit : Upc → Bool
  | .nkClear | .nkStop => true
  | _ => false

/-- The positions whose last event R89 does not look at. -/
def Unmarked (u : Upc) : Prop := FitsPosition u = fun st => st.owed = []

/-- The positions at which the pins must be taken (R131). -/
def NeedsPins (u : Upc) : Prop := FitsPosition u = fun st => st.owed = [] ∧ st.pinned = true

/-- Inside a command, with no event owed: any primitive that needs nothing before it may follow. -/
def Settled (s : State) : Prop :=
  s.busy = true ∧ s.xcode ≠ .illegalCommand ∧ ∃ st, TraceEndsIn s st ∧ st.owed = []

theorem owed_of_fitsPosition {u : Upc} {st : TraceState} (h : FitsPosition u st) (hu : inNackExit u = false) :
    st.owed = [] := by
  unfold FitsPosition at h
  split at h
  case h_4 => cases hu
  case h_5 => cases hu
  case h_11 => exact h
  all_goals exact h.1

theorem TraceFits.settled {s : State} (h : TraceFits s) (hb : s.busy = true) (hu : inNackExit s.upc = false) :
    Settled s := by
  obtain ⟨hx, st, hst, hfit⟩ := h
  exact ⟨hb, hx, st, hst, owed_of_fitsPosition hfit hu⟩

theorem Settled.fits {s : State} (h : Settled s) (hu : Unmarked s.upc) : TraceFits s := by
  obtain ⟨-, hx, st, hst, ho⟩ := h
  exact ⟨hx, st, hst, hu ▸ ho⟩

/-! ### One more event -/

theorem traceEndsIn_snoc {s t : State} {st : TraceState} {e : Event} (h : TraceEndsIn s st)
    (ht : t.trace = s.trace ++ [e]) (ha : allowed st e = true) (hb : (traceNext st e).inCmd = t.busy)
    (hp : (traceNext st e).pinned = t.pinOvr) : TraceEndsIn t (traceNext st e) :=
  have ⟨hrun, _⟩ := h
  ⟨ht ▸ traceRun_snoc _ _ _ _ hrun ha, hb, hp⟩

/-- The primitives that R89 lets stand anywhere in a segment; they leave the pins alone. -/
def isPlain : Event → Bool
  | .smp _ | .start | .stop | .tx _ | .ack _ | .reinit | .dly _ => true
  | _ => false

theorem allowed_of_isPlain {st : TraceState} {e : Event} (he : isPlain e = true)
    (ho : ∀ o ∈ st.owed.head?, o = e) : allowed st e = st.inCmd := by
  obtain ⟨c, p, l, owed⟩ := st
  cases owed with
  | nil => cases e <;> first | rfl | cases he
  | cons o os =>
    obtain rfl : o = e := ho o rfl
    cases o <;> first | exact congrArg (· && c) (decide_eq_true rfl) | cases he

section Owed

variable {st : TraceState} (ho : st.owed = [])

include ho

theorem allowed_cmd (w : Word) : allowed st (.cmd w) = !st.inCmd := by
  obtain ⟨c, p, l, owed⟩ := st
  subst ho
  rfl

theorem allowed_ret {r : Result} (hr : r.code ≠ .illegalCommand) : allowed st (.ret r) = st.inCmd := by
  obtain ⟨c, p, l, owed⟩ := st
  subst ho
  unfold allowed
  simp [hr]

theorem allowed_scl (v : Bool) : allowed st (.scl v) = (st.inCmd && st.pinned) := by
  obtain ⟨c, p, l, owed⟩ := st
  subst ho
  rfl

theorem allowed_pinDrv (c d : Bool) : allowed st (.pinDrv c d) = st.inCmd := by
  obtain ⟨c, p, l, owed⟩ := st
  subst ho
  rfl

theorem allowed_pinRel : allowed st .pinRel = st.inCmd := by
  obtain ⟨c, p, l, owed⟩ := st
  subst ho
  rfl

variable {f : Flags} (hl : st.last = some (.smp f))

include hl

theorem allowed_rx (b : Byte) : allowed st (.rx b) = (st.inCmd && f.rxrdy) := by
  obtain ⟨c, p, l, owed⟩ := st
  subst ho hl
  rfl

theorem allowed_nackClr : allowed st .nackClr = (st.inCmd && f.nack) := by
  obtain ⟨c, p, l, owed⟩ := st
  subst ho hl
  rfl

end Owed

theorem traceNext_of_isPlain {e : Event} (he : isPlain e = true) (st : TraceState) :
    traceNext st e = { st with last := some e, owed := st.owed.tail } := by
  cases e <;> first | rfl | cases he

theorem TraceEndsIn.emit {s : State} {st : TraceState} {e : Event} (h : TraceEndsIn s st) (he : isPlain e = true)
    (hb : s.busy = true) (ho : ∀ o ∈ st.owed.head?, o = e) : TraceEndsIn (emit e s) (traceNext st e) := by
  have ⟨_, hc, hp⟩ := h
  refine traceEndsIn_snoc h rfl (allowed_of_isPlain he ho |>.trans (hc.trans hb)) ?_ ?_ <;> rw [traceNext_of_isPlain he]
  · exact hc
  · exact hp

theorem Settled.emit {s : State} {e : Event} (h : Settled s) (he : isPlain e = true) : Settled (emit e s) := by
  obtain ⟨hb, hx, st, hst, ho⟩ := h
  exact ⟨hb, hx, _, hst.emit he hb (by simp [ho]), by simp [traceNext_of_isPlain he, ho]⟩

/-- `SCL` moves only while the pins are taken (R89). -/
theorem Settled.pinScl {s : State} (h : Settled s) (hp : s.pinOvr = true) (v : Bool) : Settled (pinScl v s) := by
  obtain ⟨hb, hx, st, hst, ho⟩ := h
  have ⟨_, hc, hpin⟩ := hst
  exact ⟨hb, hx, _, traceEndsIn_snoc hst rfl (by simp [allowed_scl ho, hc, hb, hpin, hp]) hc hpin,
    by simp [traceNext, ho]⟩

theorem Settled.pinDrive {s : State} (h : Settled s) (c d : Bool) : Settled (pinDrive c d s) := by
  obtain ⟨hb, hx, st, hst, ho⟩ := h
  have ⟨_, hc, _⟩ := hst
  exact ⟨hb, hx, _, traceEndsIn_snoc hst rfl (by simp [allowed_pinDrv ho, hc, hb]) hc rfl, by simp [traceNext, ho]⟩

theorem Settled.pinRelease {s : State} (h : Settled s) : Settled (pinRelease s) := by
  obtain ⟨hb, hx, st, hst, ho⟩ := h
  have ⟨_, hc, _⟩ := hst
  exact ⟨hb, hx, _, traceEndsIn_snoc hst rfl (by simp [allowed_pinRel ho, hc, hb]) hc rfl, by simp [traceNext, ho]⟩

/-- A segment closes where nothing is owed; only the segment of an illegal word, which runs no command, ends in
IllegalCommand (R89). -/
theorem complete_fits {s : State} {r : Result} (h : Settled s) (hr : r.code ≠ .illegalCommand) :
    TraceFits (complete r s) := by
  obtain ⟨hb, hx, st, hst, ho⟩ := h
  have ⟨_, hc, hpin⟩ := hst
  exact ⟨hx, _, traceEndsIn_snoc hst rfl (by simp [allowed_ret ho hr, hc, hb]) rfl hpin,
    (by simp [traceNext, ho] : (traceNext st (.ret r)).owed = [])⟩

/-- A byte is received after a receive-ready sample (R89). -/
theorem toRxRead_fits {s : State} {r : PollResult} (h : TraceFits s) (hb : s.busy = true)
    (hu : s.upc = .rxSmp (some r)) : TraceFits (toRxRead s) := by
  obtain ⟨hx, st, hst, hfit⟩ := h
  have ⟨_, hc, hpin⟩ := hst
  rw [hu] at hfit
  obtain ⟨ho, f, hl, hf⟩ := hfit
  exact ⟨hx, _, traceEndsIn_snoc hst rfl (by simp [allowed_rx ho hl, hc, hb, hf]) hc hpin,
    (by simp [traceNext, ho] : (traceNext st (.rx (nextRx s))).owed = [])⟩

/-- A NACK is cleared after a nack sample (R89). -/
theorem toNackExit_fits {s : State} (h : TraceFits s) (hb : s.busy = true)
    (hu : s.upc = .adSmp (some .nack) ∨ s.upc = .txSmp (some .nack)) : TraceFits (toNackExit s) := by
  obtain ⟨hx, st, hst, hfit⟩ := h
  have ⟨_, hc, hpin⟩ := hst
  obtain ⟨ho, f, hl, hf⟩ : st.owed = [] ∧ ∃ f, st.last = some (.smp f) ∧ f.nack = true := by
    obtain hu | hu := hu <;> rw [hu] at hfit <;> exact hfit
  exact ⟨hx, _, traceEndsIn_snoc hst rfl (by simp [allowed_nackClr ho hl, hc, hb, hf]) hc hpin, rfl⟩

/-- The stop and the delay a NACK exit owes (R89, R148). -/
theorem nackExit_fits {s : State} {e : Event} {es : List Event} {u : Upc} (h : TraceFits s) (hb : s.busy = true)
    (hs : FitsPosition s.upc = fun st => st.owed = e :: es) (hu : FitsPosition u = fun st => st.owed = es)
    (he : isPlain e = true) : TraceFits (goTo u (emit e s)) := by
  obtain ⟨hx, st, hst, hfit⟩ := h
  rw [hs] at hfit
  have ho : (traceNext st e).owed = es := by simp [traceNext_of_isPlain he, hfit]
  exact ⟨hx, _, hst.emit he hb (by simp [hfit]), hu ▸ ho⟩

/-! ### Polls (R141) -/

/-- Whatever a sample of this poll decides, the sample fits the position that keeps it. -/
def SampleFits (c : PollCond) (watch : Bool) (u : Option PollResult → Upc) : Prop :=
  ∀ s st, st.owed = [] → st.last = some (.smp (nextFlags s)) → FitsPosition (u (sampleOutcome c watch s)) st

theorem sampleFits_wfSmp : SampleFits .busFree false .wfSmp := fun _ _ ho _ => ho

theorem sampleFits_stSmp : SampleFits .txReady false .stSmp := fun _ _ ho _ => ho

theorem sampleFits_adSmp : SampleFits .txReady true .adSmp := by
  intro s st ho hl
  have hnack := (sampleOutcome_nack .txReady true s).mp
  generalize sampleOutcome .txReady true s = o at *
  rcases o with _ | _ | _ | _
  case some.nack => exact ⟨ho, _, hl, (hnack rfl).2⟩
  all_goals exact ho

theorem sampleFits_txSmp : SampleFits .txReady true .txSmp := by
  intro s st ho hl
  have h := sampleFits_adSmp s st ho hl
  generalize sampleOutcome .txReady true s = o at *
  rcases o with _ | _ | _ | _ <;> exact h

theorem sampleFits_rxSmp : SampleFits .rxReady false .rxSmp := by
  intro s st ho hl
  have hready := (sampleOutcome_ready .rxReady false s).mp
  have hnack := (sampleOutcome_nack .rxReady false s).mp
  have htimeout := sampleOutcome_ne_timeout .rxReady false s
  generalize sampleOutcome .rxReady false s = o at *
  rcases o with _ | _ | _ | _
  case none => exact ho
  case some.ready => exact ⟨ho, _, hl, (hready rfl).1⟩
  case some.nack => cases (hnack rfl).1
  case some.timeout => exact absurd rfl htimeout

section Polls

variable {c : PollCond} {watch : Bool} {u : Option PollResult → Upc} {s : State}

theorem pollSample_fits (hu : SampleFits c watch u) (h : Settled s) : TraceFits (pollSample c watch u s) := by
  obtain ⟨hb, hx, st, hst, ho⟩ := h
  have hst' : TraceEndsIn { s with flagsIn := s.flagsIn.tail, nSmp := s.nSmp + 1 } st := hst
  exact ⟨hx, _, hst'.emit (e := .smp (nextFlags s)) rfl hb (by simp [ho]),
    hu s _ (by simp [traceNext, ho]) rfl⟩

theorem beginPoll_fits (hu : SampleFits c watch u) (h : Settled s) : TraceFits (beginPoll c watch u s) :=
  pollSample_fits (s := { s with cnt := s.xb }) hu h

/-- A poll goes on, or the CORE takes what follows the poll. -/
theorem afterSample_fits {o : Option PollResult} {ready nack timeout : State → State} (hu : SampleFits c watch u)
    (h : Settled s) (hready : o = some .ready → TraceFits (ready s)) (hnack : o = some .nack → TraceFits (nack s))
    (htimeout : ∀ s, Settled s → TraceFits (timeout s)) :
    TraceFits (afterSample c watch u o ready nack timeout s) := by
  obtain ⟨ho, h'⟩ | ⟨ho, h'⟩ | ⟨-, h'⟩ | ⟨-, -, h'⟩ | ⟨-, -, h'⟩ := afterSample_cases c watch u o ready nack timeout s
    <;> rw [h']
  · exact hready ho
  · exact hnack ho
  · exact htimeout s h
  · exact htimeout (countDown s) h
  · exact pollSample_fits (s := countDown s) hu h

end Polls

/-! ### The parts of a transaction (R142 to R150) -/

theorem startXact_fits (d : Dir) (a : BusAddr) (l : Byte) (b : Word) (sel : XSel) {s : State} (h : Settled s) :
    TraceFits (startXact d a l b sel s) :=
  beginPoll_fits (s := { latchXact d a l b sel s with estate := .waitFree }) sampleFits_wfSmp h

theorem toStart_fits {s : State} (h : Settled s) : TraceFits (toStart s) := by
  obtain ⟨-, h'⟩ | ⟨-, h'⟩ := toStart_cases s <;> rw [h']
  · exact Settled.fits (h.emit (e := .start) rfl) rfl
  · exact Settled.fits (h.emit (e := .ack true) rfl) rfl

theorem toAddress_fits {s : State} (h : Settled s) : TraceFits (toAddress s) :=
  Settled.fits (h.emit (e := .tx (addressByte s.xaddr s.xdir)) rfl) rfl

theorem toData_fits {s : State} (h : Settled s) : TraceFits (toData s) := by
  obtain ⟨-, -, h'⟩ | ⟨-, -, h'⟩ | ⟨-, -, h'⟩ | ⟨-, h'⟩ := toData_cases s <;> rw [h']
  · exact Settled.fits (h.emit (e := .tx (arrayByte s.xsel s s.xidx.toNat)) rfl) rfl
  · exact Settled.fits (h.emit (e := .ack false) rfl) rfl
  · exact beginPoll_fits sampleFits_rxSmp h
  · exact Settled.fits (h.emit (e := .stop) rfl) rfl

theorem byteDone_fits {s : State} (h : Settled s) : TraceFits (byteDone s) :=
  toData_fits (s := setXidx (s.xidx.toNat + 1) s) h

theorem Settled.arrayStore {s : State} (h : Settled s) (sel : XSel) (i : Nat) (v : Byte) :
    Settled (arrayStore sel i v s) := by
  rw [arrayStore_frame]
  exact h

/-! ### Recovery (R131) -/

theorem Settled.fits_pinned {s : State} (h : Settled s) (hp : s.pinOvr = true) (hu : NeedsPins s.upc) :
    TraceFits s := by
  obtain ⟨-, hx, st, hst, ho⟩ := h
  have ⟨_, _, hpin⟩ := hst
  exact ⟨hx, st, hst, hu ▸ ⟨ho, hpin.trans hp⟩⟩

theorem TraceFits.pinOvr {s : State} (h : TraceFits s) (hu : NeedsPins s.upc) : s.pinOvr = true := by
  obtain ⟨-, st, ⟨-, -, hpin⟩, hfit⟩ := h
  rw [hu] at hfit
  obtain ⟨-, htaken⟩ := hfit
  exact hpin.symm.trans htaken

theorem toForceClear_fits {s : State} (h : Settled s) : TraceFits (toForceClear s) :=
  Settled.fits_pinned (h.pinDrive true true) rfl rfl

theorem toPulse_fits {s : State} (h : Settled s) (hp : s.pinOvr = true) (k : Nat) : TraceFits (toPulse k s) :=
  Settled.fits_pinned (h.pinScl hp false) hp rfl

theorem pulseDone_fits {s : State} (h : Settled s) (hp : s.pinOvr = true) : TraceFits (pulseDone s) := by
  obtain ⟨-, h'⟩ | ⟨-, h'⟩ := pulseDone_cases s <;> rw [h']
  · exact toPulse_fits h hp _
  · exact Settled.fits (h.emit (e := .dly Config.tClearSettle) rfl) rfl

theorem recoveryDone_fits {s : State} (h : Settled s) : TraceFits (recoveryDone s) := by
  unfold recoveryDone
  split
  · exact Settled.fits (h.emit (e := .dly Config.tRecoverSettle) rfl) rfl
  · exact complete_fits (s := { s with rstate := .idle }) h nofun

/-! ### What follows a transaction (R216) -/

theorem decodePayload_fits {s : State} (h : Settled s) : TraceFits (finish (decodePayload s)) := by
  unfold finish
  obtain ⟨-, hr, h'⟩ | ⟨-, hr, h'⟩ := decodePayload_cases s <;> rw [hr, h']
  · exact complete_fits (s := { s with payValid := true, dstate := .failed }) h nofun
  · exact complete_fits h nofun

theorem Settled.notePresent {s : State} (h : Settled s) (c : Code) : Settled (notePresent c s) := by
  obtain ⟨present, count, h'⟩ := notePresent_frame c s
  rw [h']
  exact h

theorem Settled.setXcode {s : State} (h : Settled s) {c : Code} (hc : c ≠ .illegalCommand) :
    Settled { s with xcode := c } :=
  have ⟨hb, _, htrace⟩ := h
  ⟨hb, hc, htrace⟩

theorem afterXact_fits {c : Code} {s t : State} (ha : AfterXact c s t) (h : Settled { s with xcode := c })
    (hc : c ≠ .illegalCommand) : TraceFits t := by
  cases ha with
  | triggered => exact Settled.fits (h.emit (e := .dly Config.tConv) rfl) rfl
  | triggerFailed => exact complete_fits (s := { s with xcode := c, dstate := .failed }) h hc
  | received => exact decodePayload_fits h
  | readFailed => exact toForceClear_fits h
  | probed =>
    exact startXact_fits _ _ _ _ _ (s := { notePresent c { s with xcode := c } with saddr := s.saddr + 1#7 })
      (h.notePresent c)
  | scanned => exact complete_fits (h.notePresent c) nofun
  | answered => exact complete_fits h hc

theorem xactDone_fits {c : Code} {s : State} (h : Settled s) (hc : c ≠ .illegalCommand) : TraceFits (xactDone c s) :=
  afterXact_fits (xactDone_afterXact c s) (h.setXcode hc) hc

theorem plainExit_fits {c : Code} (hc : c ≠ .illegalCommand) (s : State) (h : Settled s) : TraceFits (plainExit c s) :=
  xactDone_fits (s := { s with estate := .failed }) h hc

theorem nackCode_ne_illegalCommand (s : State) : nackCode s ≠ .illegalCommand := by
  unfold nackCode
  split <;> decide

/-! ### Every step -/

theorem firstPrimitive_fits (i : Instr) {s : State} (h : Settled s) : TraceFits (firstPrimitive i s) := by
  cases i with
  | write a l => exact startXact_fits _ _ _ _ _ h
  | read a l => exact startXact_fits _ _ _ _ _ h
  | forceClear => exact toForceClear_fits h
  | measure => exact startXact_fits _ _ _ _ _ h
  | scan => exact startXact_fits _ _ _ _ _ (s := { s with saddr := BitVec.ofNat 7 Config.addrMin }) h
  | reinit => exact Settled.fits h.pinRelease rfl

/-- The cases stand in the order of the positions. -/
theorem coreStep_fits {s t : State} (h : coreStep s = .next t) (hb : s.busy = true) (hs : TraceFits s) :
    TraceFits t := by
  have hset := hs.settled hb
  have hpin := hs.pinOvr
  have ⟨hxcode, _⟩ := hs
  unfold coreStep at h
  split at h <;> cases h
  next i hu => exact firstPrimitive_fits i (hset (hu ▸ rfl))
  next o hu =>
    have h := hset (hu ▸ rfl)
    exact afterSample_fits sampleFits_wfSmp h (fun _ => toStart_fits h) (fun _ => toStart_fits h)
      fun s' h' => Settled.fits (h'.emit (e := .stop) rfl) rfl
  next hu => exact Settled.fits ((hset (hu ▸ rfl)).emit (e := .dly Config.tBusfreeRetry) rfl) rfl
  next hu => exact Settled.fits ((hset (hu ▸ rfl)).emit (e := .smp (nextFlags s)) rfl) rfl
  next busy hu =>
    have h := hset (hu ▸ rfl)
    cases busy with
    | true => exact plainExit_fits (c := .busStuck) nofun s h
    | false => exact toStart_fits h
  next hu => exact Settled.fits ((hset (hu ▸ rfl)).emit (e := .start) rfl) rfl
  next hu => exact beginPoll_fits sampleFits_stSmp (hset (hu ▸ rfl))
  next o hu =>
    have h := hset (hu ▸ rfl)
    exact afterSample_fits sampleFits_stSmp h (fun _ => toAddress_fits h) (fun _ => toAddress_fits h)
      (plainExit_fits nofun)
  next hu => exact beginPoll_fits sampleFits_adSmp (hset (hu ▸ rfl))
  next o hu =>
    have h := hset (hu ▸ rfl)
    exact afterSample_fits sampleFits_adSmp h (fun _ => toData_fits (s := { s with estate := .data }) h)
      (fun ho => toNackExit_fits hs hb (.inl (ho ▸ hu))) (plainExit_fits nofun)
  next hu => exact beginPoll_fits sampleFits_txSmp (hset (hu ▸ rfl))
  next o hu =>
    have h := hset (hu ▸ rfl)
    exact afterSample_fits sampleFits_txSmp h (fun _ => byteDone_fits h)
      (fun ho => toNackExit_fits hs hb (.inr (ho ▸ hu))) (plainExit_fits nofun)
  next hu => exact beginPoll_fits sampleFits_rxSmp (hset (hu ▸ rfl))
  next o hu =>
    exact afterSample_fits sampleFits_rxSmp (hset (hu ▸ rfl)) (fun ho => toRxRead_fits hs hb (ho ▸ hu))
      (fun ho => toRxRead_fits hs hb (ho ▸ hu)) (plainExit_fits nofun)
  next b hu => exact byteDone_fits ((hset (hu ▸ rfl)).arrayStore _ _ b)
  next hu => exact Settled.fits ((hset (hu ▸ rfl)).emit (e := .dly Config.tStopSettle) rfl) rfl
  next hu => exact xactDone_fits (s := { s with estate := .done }) (hset (hu ▸ rfl)) nofun
  next hu => exact nackExit_fits hs hb (hu ▸ rfl) rfl rfl
  next hu => exact nackExit_fits hs hb (hu ▸ rfl) rfl rfl
  next hu => exact xactDone_fits (s := { s with estate := .failed }) (hset (hu ▸ rfl)) (nackCode_ne_illegalCommand s)
  next hu => exact toPulse_fits (s := { s with rstate := .pulse }) (hset (hu ▸ rfl)) (hpin (hu ▸ rfl)) 1
  next hu =>
    exact Settled.fits_pinned ((hset (hu ▸ rfl)).emit (e := .dly Config.tEdge) rfl) (hpin (hu ▸ rfl)) rfl
  next hu => exact Settled.fits_pinned ((hset (hu ▸ rfl)).pinScl (hpin (hu ▸ rfl)) true) (hpin (hu ▸ rfl)) rfl
  next hu =>
    exact Settled.fits_pinned ((hset (hu ▸ rfl)).emit (e := .dly Config.tEdge) rfl) (hpin (hu ▸ rfl)) rfl
  next hu => exact pulseDone_fits (hset (hu ▸ rfl)) (hpin (hu ▸ rfl))
  next hu => exact recoveryDone_fits (hset (hu ▸ rfl))
  next hu => exact startXact_fits _ _ _ _ _ (s := { s with dstate := .reading }) (hset (hu ▸ rfl))
  next hu => exact complete_fits (s := { s with dstate := .failed }) (hset (hu ▸ rfl)) hxcode
  next hu => exact Settled.fits ((hset (hu ▸ rfl)).emit (e := .reinit) rfl) rfl
  next hu => exact complete_fits (s := { s with desync := false, estate := .idle }) (hset (hu ▸ rfl)) nofun

/-- A write to CMD while BUSY = 0 opens a segment (R88). -/
theorem traceEndsIn_cmd {s t : State} {st : TraceState} {w : Word} (h : TraceEndsIn s st) (ho : st.owed = [])
    (hb : s.busy = false) (ht : t.trace = s.trace ++ [.cmd w]) (hb' : t.busy = true) (hp : t.pinOvr = s.pinOvr) :
    TraceEndsIn t (traceNext st (.cmd w)) := by
  have ⟨_, hc, hpin⟩ := h
  exact traceEndsIn_snoc h ht (by simp [allowed_cmd ho, hc, hb]) hb'.symm (hpin.trans hp.symm)

theorem acceptedState_fits (i : Instr) {s : State} (hb : s.busy = false) (hu : s.upc = .idle) (hs : TraceFits s) :
    TraceFits (acceptedState i s) := by
  obtain ⟨hx, st, hst, hfit⟩ := hs
  have ho : st.owed = [] := owed_of_fitsPosition hfit (hu ▸ rfl)
  have hopen : TraceEndsIn (acceptedState i s) (traceNext st (.cmd (encode i))) :=
    traceEndsIn_cmd hst ho hb (by cases i <;> rfl) (by cases i <;> rfl) (by cases i <;> rfl)
  have howed : (traceNext st (.cmd (encode i))).owed = [] := by simp [traceNext, ho]
  refine ⟨?_, _, hopen, howed⟩
  cases i <;> exact hx

/-- The segment of an illegal word: nothing stands inside (R89). -/
theorem refuseWord_fits (w : Word) {s : State} (hb : s.busy = false) (hu : s.upc = .idle) (hs : TraceFits s) :
    TraceFits (refuseWord (takeWord w s)) := by
  obtain ⟨hx, st, hst, hfit⟩ := hs
  have ho : st.owed = [] := owed_of_fitsPosition hfit (hu ▸ rfl)
  have hopen : TraceEndsIn { takeWord w s with busy := true } (traceNext st (.cmd w)) :=
    traceEndsIn_cmd hst ho hb rfl rfl rfl
  have hret : allowed (traceNext st (.cmd w)) (.ret illegalResult) = true := by
    obtain ⟨c, p, l, owed⟩ := st
    subst ho
    rfl
  have howed : (traceNext (traceNext st (.cmd w)) (.ret illegalResult)).owed = [] := by simp [traceNext, ho]
  have ⟨_, _, hpin⟩ := hopen
  have hidle : (refuseWord (takeWord w s)).upc = .idle := hu
  exact ⟨hx, _, traceEndsIn_snoc hopen rfl hret hb.symm hpin, hidle ▸ howed⟩

/-- Settles O54: the CORE's position says what its last event was and what is owed, which is what the rule of its next
event asks. -/
theorem traceKeepsItsShape : Obligations.TraceKeepsItsShape := by
  intro s t hs h
  refine step_keeps (P := TraceInv) ?host ?reset ?refuse ?accept ?core h hs
  case host => rintro s _ ⟨⟩ hs; exact hs
  case reset => exact fun s => ⟨positionInv_idle rfl rfl, nofun, .start, rfl, rfl, rfl, rfl⟩
  case refuse =>
    intro w s hb hs
    rw [traceInv_iff] at hs ⊢
    obtain ⟨hp, hf⟩ := hs
    exact ⟨positionInv_refuseWord hp hb w, refuseWord_fits w hb (upc_idle_of_positionInv hp hb) hf⟩
  case accept =>
    intro i s hb _ hs
    rw [traceInv_iff] at hs ⊢
    obtain ⟨hp, hf⟩ := hs
    exact ⟨positionInv_acceptedState i s, acceptedState_fits i hb (upc_idle_of_positionInv hp hb) hf⟩
  case core =>
    intro s t hb h hs
    rw [traceInv_iff] at hs ⊢
    obtain ⟨-, hf⟩ := hs
    exact ⟨positionInv_of_primitive hb (primitive_of_coreStep h), coreStep_fits h hb hf⟩

end Sys2Proof.Proofs
end

section
/-! ## Proofs: the command word (R101 to R103, R110, R112, R115)

The fields of a word as numbers, so that the clauses of R110 and the tests of R103 speak of the same quantities; the
decoder opcode by opcode; and the statements, which follow from the two. -/

open Sys2Proof Sys2Proof.Machine Sys2Proof.Safety

namespace Sys2Proof.Proofs

/-! ### The fields of a word as numbers (R101 to R105) -/

theorem opField_toNat (w : Word) : (opField w).toNat = wordOp w := by
  have hw := w.isLt
  simp only [opField, wordOp, BitVec.extractLsb'_toNat, Nat.shiftRight_eq_div_pow]
  omega

theorem addrField_toNat (w : Word) : (addrField w).toNat = wordAddr w := by
  simp [addrField, wordAddr, Nat.shiftRight_eq_div_pow]

theorem lenField_toNat (w : Word) : (lenField w).toNat = wordLen w := by
  simp [lenField, wordLen, Nat.shiftRight_eq_div_pow]

theorem wordOp_lt (w : Word) : wordOp w < 16 := opField_toNat w ▸ (opField w).isLt

theorem wordAddr_lt (w : Word) : wordAddr w < 128 := addrField_toNat w ▸ (addrField w).isLt

theorem opField_eq_iff {w : Word} {k : BitVec 4} : opField w = k ↔ wordOp w = k.toNat := by
  rw [← BitVec.toNat_inj, opField_toNat]

/-- A mask of `n` ones at bit `lo` keeps one field of the word. -/
theorem and_fieldAt_allOnes_eq_zero {w : Word} {lo n : Nat} (hn : lo + n ≤ 32) :
    w &&& fieldAt lo (BitVec.allOnes n) = 0#32 ↔ w.extractLsb' lo n = 0#n := by
  rw [BitVec.eq_of_getLsbD_eq_iff, BitVec.eq_of_getLsbD_eq_iff]
  simp only [BitVec.getLsbD_and, getLsbD_fieldAt, BitVec.getLsbD_allOnes, BitVec.getLsbD_extractLsb',
    BitVec.getLsbD_zero]
  constructor
  · intro h j hj
    simpa [hj, show lo + j < 32 by omega] using h (lo + j) (by omega)
  · intro h k hk
    by_cases hfield : lo ≤ k ∧ k - lo < n
    · have hbit : w.getLsbD k = false := by simpa [hfield] using h (k - lo) hfield.2
      simp [hbit]
    · rw [not_and] at hfield
      simp +contextual [hfield]

theorem formatXReserved_eq_zero_iff {w : Word} :
    formatXReserved w = 0#32 ↔ w.toNat / 0x800000 % 0x20 = 0 ∧ w.toNat % 0x100 = 0 := by
  have hmask : 0x0F8000FF#32 = fieldAt 23 (BitVec.allOnes 5) ||| fieldAt 0 (BitVec.allOnes 8) := by decide
  rw [formatXReserved, hmask, BitVec.and_or_distrib_left, BitVec.or_eq_zero_iff,
    and_fieldAt_allOnes_eq_zero (by decide), and_fieldAt_allOnes_eq_zero (by decide)]
  simp [← BitVec.toNat_inj, Nat.shiftRight_eq_div_pow]

theorem formatZReserved_eq_zero_iff {w : Word} : formatZReserved w = 0#32 ↔ w.toNat % 0x10000000 = 0 := by
  have hmask : 0x0FFFFFFF#32 = fieldAt 0 (BitVec.allOnes 28) := by decide
  rw [formatZReserved, hmask, and_fieldAt_allOnes_eq_zero (by decide)]
  simp [← BitVec.toNat_inj]

/-! ### A word is its fields -/

theorem eq_of_formatX {v w : Word} (hv : formatXReserved v = 0#32) (hw : formatXReserved w = 0#32)
    (hop : opField v = opField w) (haddr : addrField v = addrField w) (hlen : lenField v = lenField w) : v = w := by
  rw [formatXReserved_eq_zero_iff] at hv hw
  rw [← BitVec.toNat_inj, opField_toNat, opField_toNat, wordOp, wordOp] at hop
  rw [← BitVec.toNat_inj, addrField_toNat, addrField_toNat, wordAddr, wordAddr] at haddr
  rw [← BitVec.toNat_inj, lenField_toNat, lenField_toNat, wordLen, wordLen] at hlen
  apply BitVec.eq_of_toNat_eq
  omega

theorem eq_of_formatZ {v w : Word} (hv : formatZReserved v = 0#32) (hw : formatZReserved w = 0#32)
    (hop : opField v = opField w) : v = w := by
  rw [formatZReserved_eq_zero_iff] at hv hw
  rw [← BitVec.toNat_inj, opField_toNat, opField_toNat, wordOp, wordOp] at hop
  apply BitVec.eq_of_toNat_eq
  omega

/-! ### The decoder, opcode by opcode (R103) -/

theorem decode_of_writeOpcode {w : Word} (h : opField w = 1#4) :
    decode w = decodeX (.write (addrField w) (lenField w)) w := by simp [decode, h]

theorem decode_of_readOpcode {w : Word} (h : opField w = 2#4) :
    decode w = decodeX (.read (addrField w) (lenField w)) w := by simp [decode, h]

theorem decode_of_forceClearOpcode {w : Word} (h : opField w = 3#4) : decode w = decodeZ .forceClear w := by
  simp [decode, h]

theorem decode_of_measureOpcode {w : Word} (h : opField w = 4#4) : decode w = decodeZ .measure w := by
  simp [decode, h]

theorem decode_of_scanOpcode {w : Word} (h : opField w = 5#4) : decode w = decodeZ .scan w := by
  simp [decode, h, Config.hasScan]

theorem decode_of_reinitOpcode {w : Word} (h : opField w = 6#4) : decode w = decodeZ .reinit w := by
  simp [decode, h]

theorem decode_reservedOpcode {w : Word} (h : wordOp w = 0 ∨ 7 ≤ wordOp w) : decode w = .error .reservedOpcode := by
  have hop (k : BitVec 4) (hk : 1 ≤ k.toNat ∧ k.toNat ≤ 6) : opField w ≠ k := by
    rw [ne_eq, opField_eq_iff]
    omega
  simp [decode, hop]

/-- The operands need not be legal: the operand check is no part of the decoder (R103). -/
theorem decode_encode (i : Instr) : decode (encode i) = .ok i := by
  cases i with
  | write a l => simp [decode_of_writeOpcode (opField_write a l), decodeX, formatXReserved_write]
  | read a l => simp [decode_of_readOpcode (opField_read a l), decodeX, formatXReserved_read]
  | forceClear => rfl
  | measure => rfl
  | scan => rfl
  | reinit => rfl

theorem encode_of_decode {w : Word} {i : Instr} (h : decode w = .ok i) : encode i = w := by
  have hw := decode_ok w i h
  cases i with
  | write a l =>
    obtain ⟨hop, hres, haddr, hlen⟩ := hw
    exact eq_of_formatX (formatXReserved_write a l) hres (by simp [hop]) (by simp [haddr]) (by simp [hlen])
  | read a l =>
    obtain ⟨hop, hres, haddr, hlen⟩ := hw
    exact eq_of_formatX (formatXReserved_read a l) hres (by simp [hop]) (by simp [haddr]) (by simp [hlen])
  | forceClear | measure | scan | reinit =>
    obtain ⟨hop, hres⟩ := hw
    exact eq_of_formatZ (by decide) hres (by simp [hop])

/-- Settles O1: the word of a command carries its opcode and its fields, and no must-be-zero bit. -/
theorem encodeThenDecodeIsIdentity : Obligations.EncodeThenDecodeIsIdentity := fun i _ => decode_encode i

/-- Settles O2: a word is its opcode, its must-be-zero bits and its fields. -/
theorem decodedWordIsTheEncoding : Obligations.DecodedWordIsTheEncoding := fun _ _ h => encode_of_decode h

/-- Settles O3: thirteen closed words, evaluated. -/
theorem tableWordsDecode : Obligations.TableWordsDecode := by
  unfold Obligations.TableWordsDecode
  decide

/-! ### The write of a word to CMD (R112, R197) -/

theorem cmdWrite_decoded {w : Word} {i : Instr} (h : decode w = .ok i) (s : State) : cmdWrite w s = exec i s := by
  simp [cmdWrite, h]

theorem cmdWrite_undecoded {w : Word} {e : DecodeError} (h : decode w = .error e) {s : State} (hb : s.busy = false) :
    cmdWrite w s = .next (refuseWord (takeWord w s)) := by
  simp [cmdWrite, cmdIllegal, h, hb]

theorem step_hwr_cmd {w : Word} {rest : List Input} {s : State} (h : s.inbox = .hwr offCmd w :: rest) :
    step s = cmdWrite w { s with inbox := rest } := by
  rw [step_cons s _ rest h]
  rfl

theorem withFetchWord_inbox (u : State) (w : Word) :
    (u.withFetchWord 32 w.toNat).inbox = .hwr offCmd w :: u.inbox := by
  rw [State.withFetchWord, Nat.mod_eq_of_lt w.isLt, BitVec.ofNat_toNat, BitVec.setWidth_eq]

/-- Settles O5: both steps are the write of the word to CMD. -/
theorem stepRunsTheDecodedCommand : Obligations.StepRunsTheDecodedCommand := by
  intro w i rest s hw hin
  refine ⟨?_, fun u => ?_⟩
  · rw [step_hwr_cmd hin, cmdWrite_decoded hw]
  · rw [step_hwr_cmd (withFetchWord_inbox u w), cmdWrite_decoded hw]
    rfl

/-! ### Illegal words (R110) -/

theorem exists_decodeX_ok {w : Word} {i : Instr} {P : Instr → Prop} :
    (∃ j, decodeX i w = .ok j ∧ P j) ↔ formatXReserved w = 0#32 ∧ P i := by
  unfold decodeX
  split <;> simp [*]

theorem exists_decodeZ_ok {w : Word} {i : Instr} {P : Instr → Prop} :
    (∃ j, decodeZ i w = .ok j ∧ P j) ↔ formatZReserved w = 0#32 ∧ P i := by
  unfold decodeZ
  split <;> simp [*]

theorem addrLegal_addrField (w : Word) : addrLegal (addrField w) = true ↔ wordAddr w ≠ 0 ∧ wordAddr w ≠ 0x7F := by
  have h := wordAddr_lt w
  simp only [addrLegal, addrField_toNat, Config.addrMin, Config.addrMax, Bool.and_eq_true, decide_eq_true_eq]
  omega

theorem lenLegal_lenField (w : Word) :
    lenLegal (lenField w) = true ↔ wordLen w ≠ 0 ∧ wordLen w ≤ Config.bufSize := by
  simp only [lenLegal, lenField_toNat, Bool.and_eq_true, decide_eq_true_eq]
  omega

theorem budgetLegal_iff {b : Word} : budgetLegal b = true ↔ b ≠ 0#32 := by simp [budgetLegal]

/-- A format X word is legal exactly when its must-be-zero bits, its address, its length and TBUDGET are. -/
theorem not_illegalWord_formatX {w : Word} (s : State) (h : wordOp w = 1 ∨ wordOp w = 2) :
    ¬ IllegalWord w s ↔ formatXReserved w = 0#32 ∧
      (addrLegal (addrField w) && lenLegal (lenField w) && budgetLegal s.tbudget) = true := by
  rw [formatXReserved_eq_zero_iff, Bool.and_eq_true, Bool.and_eq_true, addrLegal_addrField, lenLegal_lenField,
    budgetLegal_iff]
  obtain h | h := h <;> (simp [IllegalWord, h]; tauto)

/-- A word is illegal exactly when it decodes to no command or the command's operand check fails. -/
theorem not_illegalWord_iff (w : Word) (s : State) :
    ¬ IllegalWord w s ↔ ∃ i, decode w = .ok i ∧ operandsLegal i s = true := by
  have hlt := wordOp_lt w
  have hcases : (wordOp w = 0 ∨ 7 ≤ wordOp w) ∨ wordOp w = 1 ∨ wordOp w = 2 ∨ wordOp w = 3 ∨ wordOp w = 4 ∨
      wordOp w = 5 ∨ wordOp w = 6 := by omega
  obtain h | h | h | h | h | h | h := hcases
  · rw [decode_reservedOpcode h]
    obtain h | h := h <;> simp [IllegalWord, h]
  · rw [not_illegalWord_formatX s (.inl h), decode_of_writeOpcode (opField_eq_iff.mpr h), exists_decodeX_ok]
    rfl
  · rw [not_illegalWord_formatX s (.inr h), decode_of_readOpcode (opField_eq_iff.mpr h), exists_decodeX_ok]
    rfl
  · rw [decode_of_forceClearOpcode (opField_eq_iff.mpr h), exists_decodeZ_ok, formatZReserved_eq_zero_iff]
    simp [IllegalWord, h, operandsLegal]
  · rw [decode_of_measureOpcode (opField_eq_iff.mpr h), exists_decodeZ_ok, formatZReserved_eq_zero_iff]
    simp [IllegalWord, h, operandsLegal, budgetLegal_iff]
  · rw [decode_of_scanOpcode (opField_eq_iff.mpr h), exists_decodeZ_ok, formatZReserved_eq_zero_iff]
    simp [IllegalWord, h, operandsLegal, budgetLegal_iff, Config.hasScan]
  · rw [decode_of_reinitOpcode (opField_eq_iff.mpr h), exists_decodeZ_ok, formatZReserved_eq_zero_iff]
    simp [IllegalWord, h, operandsLegal]

theorem cmdWrite_illegalWord {w : Word} {s : State} (hb : s.busy = false) (h : IllegalWord w s) :
    cmdWrite w s = .next (refuseWord (takeWord w s)) := by
  cases hw : decode w with
  | error e => exact cmdWrite_undecoded hw hb
  | ok i =>
    have hoperands : operandsLegal i s = false :=
      Bool.eq_false_iff.mpr fun ho => (not_illegalWord_iff w s).mpr ⟨i, hw, ho⟩ h
    rw [cmdWrite_decoded hw, exec_eq_command, command_illegal _ _ _ s hb hoperands, encode_of_decode hw]

/-- Settles O6: the words R110 lists are those that decode to no command or fail the operand check, and either way the
word is taken and refused. -/
theorem illegalWordsAreRefused : Obligations.IllegalWordsAreRefused := by
  intro w s hb
  refine ⟨fun h => ?_, (not_illegalWord_iff w s).mp⟩
  rw [cmdWrite_illegalWord hb h]
  simp [refuseWord, takeWord, emit, opField, illegalResult]

end Sys2Proof.Proofs
end

section
/-! ## Proofs: bus recovery (R130, R131, R133)

The pulses of `ForceClear()` leave SCL_O as they find it, high, and append their events one pulse at a time; the
procedure is these pulses between its first and its last lines. Each of the two commands is its operation between the
accept and the completion every command shares (R197). -/

open Sys2Proof Sys2Proof.Machine Sys2Proof.Safety

namespace Sys2Proof.Proofs

/-! ### ForceClear() (R131) -/

/-- With SCL_O high, `n` pulses change PULSE and append their events (R131). -/
theorem clockPulses_of_sclO (n k : Nat) {s : State} (h : s.sclO = true) :
    ∃ pulse, clockPulses n k s =
      { s with pulse := pulse, trace := s.trace ++ (List.replicate n pulseEvents).flatten } := by
  induction n generalizing k s with
  | zero => exact ⟨s.pulse, by simp [clockPulses]⟩
  | succ n ih =>
    have hhigh : (clockPulse k s).sclO = true := by rw [clockPulse_eq]
    obtain ⟨pulse, hrest⟩ := ih (k + 1) hhigh
    refine ⟨pulse, ?_⟩
    rw [clockPulses, hrest, clockPulse_eq]
    simp [List.replicate_succ, pulseEvents, h]

theorem takePins_eq (s : State) :
    takePins s =
      { s with
        desync := true, pinOvr := true, sclO := true, sdaO := true, rstate := .pulse,
        trace := s.trace ++ [.pinDrv true true] } := rfl

theorem settlePins_eq (s : State) :
    settlePins s =
      { s with pulse := 0#4, rstate := .idle, trace := s.trace ++ [.dly Config.tClearSettle] } := rfl

/-- The whole procedure (R131). -/
theorem runForceClear_eq (s : State) :
    runForceClear s =
      { s with
        desync := true, pinOvr := true, sclO := true, sdaO := true, rstate := .idle, pulse := 0#4,
        trace := s.trace ++ forceClearEvents } := by
  have hhigh : (takePins s).sclO = true := rfl
  obtain ⟨pulse, hpulses⟩ := clockPulses_of_sclO Config.nPulses 1 hhigh
  rw [runForceClear, hpulses, settlePins_eq, takePins_eq]
  simp [forceClearEvents]

/-- Settles O19: the procedure's state for every state it is called in; the length and the delays of its closed list of
events are evaluated. -/
theorem forceClearProcedure : Obligations.ForceClearProcedure :=
  ⟨runForceClear_eq, by decide, by decide⟩

/-! ### The commands (R130, R133) -/

/-- A command whose HOST waits is its operation between accept and completion (R197). -/
theorem exec_accepted {i : Instr} {s : State} (h : Accepts i s) :
    exec i s =
      .next (complete (operation i (acceptCommand i (takeWord (encode i) s))).1
        (operation i (acceptCommand i (takeWord (encode i) s))).2) := by
  obtain ⟨hb, hc, ho⟩ := h
  rw [exec_eq_command, command_blocks i (operation i) (onAccept i) s hb ho hc]

/-- A command that latches no operand and always succeeds: its operation runs from the word taken with BUSY raised. -/
theorem exec_of_latchless {i : Instr} {run : State → State} {s : State} (h : Accepts i s)
    (hlatch : ∀ v, latchOperands i v = v) (hrun : ∀ v, operation i v = (okResult, run v)) :
    exec i s =
      .next (complete okResult (run
        { s with
          cmd := encode i, opcur := opField (encode i), done := false, cmdOvr := false, busy := true,
          trace := s.trace ++ [.cmd (encode i)] })) := by
  rw [exec_accepted h, hrun, acceptCommand, hlatch]
  rfl

theorem complete_eq (r : Result) (s : State) :
    complete r s =
      { s with result := r, busy := false, done := true, upc := .idle, trace := s.trace ++ [.ret r] } := rfl

theorem encode_forceClear : encode .forceClear = 0x30000000#32 := by decide
theorem encode_reinit : encode .reinit = 0x60000000#32 := by decide

/-- REINIT's operation (R133). -/
theorem runReinit_eq (s : State) :
    runReinit s =
      { s with pinOvr := false, desync := false, estate := .idle, trace := s.trace ++ [.pinRel, .reinit] } := by
  simp [runReinit, pinRelease, emit]

/-- Settles O20: accept, `ForceClear()` and completion one after the other; BUSY is 0 before and after. -/
theorem forceClearCompletes : Obligations.ForceClearCompletes := by
  intro s hs
  have hidle : s.busy = false := hs.1
  have hop : opField 0x30000000#32 = 3#4 := by decide
  rw [exec_of_latchless hs (fun _ => rfl) (fun _ => rfl), encode_forceClear, runForceClear_eq, complete_eq]
  simp [hop, hidle, okResult]

/-- Settles O21: accept, the release of the pins with the line unit's reset, and completion; BUSY is 0 before and
after. -/
theorem reinitCompletes : Obligations.ReinitCompletes := by
  intro s hs
  have hidle : s.busy = false := hs.1
  have hop : opField 0x60000000#32 = 6#4 := by decide
  rw [exec_of_latchless hs (fun _ => rfl) (fun _ => rfl), encode_reinit, runReinit_eq, complete_eq]
  simp [hop, hidle, okResult]

end Sys2Proof.Proofs
end

section
/-! ## Proofs: the bounded poll and the wait for a free bus (R141, R142)

A poll takes samples until one decides it or its budget is spent (`PollRun`); the state it leaves is the one after that
many samples (`sampled`). WaitBusFree is one such poll, and the forced stop with its one recheck after a timeout. -/

open Sys2Proof Sys2Proof.Machine Sys2Proof.Safety

namespace Sys2Proof.Proofs

/-! ### The poll (R141) -/

/-- What one sample decides in a poll with P_RACE = NackFirst; none when the poll goes on. -/
def decides (c : PollCond) (watch : Bool) (f : Flags) : Option PollResult :=
  if watch && f.nack then some .nack else if condHolds c f then some .ready else none

theorem sampleOutcome_eq_decides (c : PollCond) (watch : Bool) (s : State) :
    sampleOutcome c watch s = decides c watch (nextFlags s) := rfl

theorem decides_eq_none {c : PollCond} {watch : Bool} {f : Flags} :
    decides c watch f = none ↔ (watch && f.nack) = false ∧ condHolds c f = false := by
  unfold decides
  cases watch && f.nack <;> cases condHolds c f <;> simp

theorem decides_eq_nack {c : PollCond} {watch : Bool} {f : Flags} :
    decides c watch f = some .nack ↔ watch = true ∧ f.nack = true := by
  unfold decides
  cases watch <;> cases f.nack <;> cases condHolds c f <;> simp

theorem decides_eq_ready {c : PollCond} {watch : Bool} {f : Flags} :
    decides c watch f = some .ready ↔ condHolds c f = true ∧ (watch && f.nack) = false := by
  unfold decides
  cases watch && f.nack <;> cases condHolds c f <;> simp

/-- The state after `j` samples, with CNT at `n`. -/
def sampled (j : Nat) (n : Word) (s : State) : State :=
  { s with
    cnt := n, flagsIn := s.flagsIn.drop j, nSmp := s.nSmp + j,
    trace := s.trace ++ (List.range j).map fun k => Event.smp (flagsAhead s k) }

theorem luSample_eq_sampled (s : State) : luSample s = sampled 1 s.cnt s := by
  simp [sampled, luSample, emit]

theorem sampled_countDown_luSample (j : Nat) (n : Word) (s : State) :
    sampled j n (countDown (luSample s)) = sampled (j + 1) n s := by
  simp [sampled, countDown, luSample, emit, List.range_succ_eq_map, flagsAhead, nextFlags, List.head?_eq_getElem?,
    Function.comp_def, Nat.add_comm, Nat.add_left_comm]

/-- CNT after a poll that ended with its `j`-th sample: a timeout is counted too. -/
def countAfter (r : PollResult) (j : Nat) (n : Word) : Word :=
  match r with
  | .timeout => n - BitVec.ofNat 32 j
  | _ => n - BitVec.ofNat 32 (j - 1)

/-- What a poll with `n` samples to take returns when it ends with its `j`-th sample, which shows `f`. -/
def endsWith (c : PollCond) (watch : Bool) (n j : Nat) (f : Flags) (r : PollResult) : Prop :=
  match r with
  | .timeout => j = n ∧ decides c watch f = none
  | r => decides c watch f = some r

/-- A poll from `s` with `n` samples to take and CNT loaded with `m` ends with its `j`-th sample. -/
structure PollRun (c : PollCond) (watch : Bool) (n : Nat) (m : Word) (j : Nat) (s : State) (p : PollResult × State) :
    Prop where
  pos       : 1 ≤ j
  le        : j ≤ n
  undecided : ∀ k, k + 1 < j → decides c watch (flagsAhead s k) = none
  state     : p.2 = sampled j (countAfter p.1 j m) s
  last      : endsWith c watch n j (flagsAhead s (j - 1)) p.1

section PollLoop

variable {c : PollCond} {watch : Bool} {s : State}

theorem pollLoop_of_some {r : PollResult} (h : decides c watch (nextFlags s) = some r) (n : Nat) :
    pollLoop c watch (n + 1) s = (r, luSample s) := by
  simp [pollLoop, sampleOutcome_eq_decides, h]

theorem pollLoop_of_none (h : decides c watch (nextFlags s) = none) (n : Nat) :
    pollLoop c watch (n + 1) s = pollLoop c watch n (countDown (luSample s)) := by
  simp [pollLoop, sampleOutcome_eq_decides, h]

/-- The first sample decides. -/
theorem PollRun.first {r : PollResult} (h : decides c watch (nextFlags s) = some r) (n : Nat) :
    PollRun c watch (n + 1) s.cnt 1 s (r, luSample s) := by
  have hne : r ≠ .timeout := fun hr => sampleOutcome_ne_timeout c watch s (hr ▸ h)
  refine ⟨le_rfl, by omega, by omega, ?_, ?_⟩
  · cases r with
    | timeout => exact absurd rfl hne
    | _ => simp [countAfter, luSample_eq_sampled]
  · cases r with
    | timeout => exact absurd rfl hne
    | _ => simpa [endsWith] using h

/-- The budget's one sample decides nothing. -/
theorem PollRun.exhausted (h : decides c watch (nextFlags s) = none) :
    PollRun c watch 1 s.cnt 1 s (.timeout, countDown (luSample s)) :=
  ⟨le_rfl, le_rfl, by omega, by simp [countAfter, sampled, countDown, luSample, emit], rfl, by simpa using h⟩

/-- A first sample that decides nothing, and the rest of the poll. -/
theorem PollRun.next {n j : Nat} {p : PollResult × State} (hs : decides c watch (nextFlags s) = none)
    (h : PollRun c watch n (s.cnt - 1#32) j (countDown (luSample s)) p) :
    PollRun c watch (n + 1) s.cnt (j + 1) s p := by
  obtain ⟨hpos, hle, hund, hstate, hlast⟩ := h
  have hidx : j - 1 + 1 = j := by omega
  refine ⟨by omega, by omega, fun k hk => ?_, ?_, ?_⟩
  · cases k with
    | zero => rwa [flagsAhead_zero]
    | succ k => simpa using hund k (by omega)
  · rw [hstate, sampled_countDown_luSample]
    congr 1
    cases p.1 <;> simp only [countAfter] <;> bv_omega
  · cases hp : p.1 <;> simpa [hp, endsWith, hidx] using hlast

/-- Every outcome of the loop, by the samples it takes. -/
theorem pollLoop_run (c : PollCond) (watch : Bool) (n : Nat) (s : State) :
    ∃ j, PollRun c watch (n + 1) s.cnt j s (pollLoop c watch (n + 1) s) := by
  induction n generalizing s with
  | zero =>
    cases h : decides c watch (nextFlags s) with
    | some r => exact ⟨1, pollLoop_of_some h 0 ▸ .first h 0⟩
    | none => exact ⟨1, pollLoop_of_none h 0 ▸ .exhausted h⟩
  | succ n ih =>
    cases h : decides c watch (nextFlags s) with
    | some r => exact ⟨1, pollLoop_of_some h _ ▸ .first h _⟩
    | none =>
      obtain ⟨j, hj⟩ := ih (countDown (luSample s))
      exact ⟨j + 1, pollLoop_of_none h _ ▸ hj.next h⟩

end PollLoop

/-- Every outcome of a poll whose budget is not 0. -/
theorem poll_run (c : PollCond) (watch : Bool) {b : Word} (s : State) (hb : b ≠ 0#32) :
    ∃ j, PollRun c watch b.toNat b j s (poll c watch b s) := by
  obtain ⟨n, hn⟩ : ∃ n, b.toNat = n + 1 := Nat.exists_eq_succ_of_ne_zero fun h => hb (by bv_omega)
  obtain ⟨j, hpos, hle, hund, hstate, hlast⟩ := pollLoop_run c watch n { s with cnt := b }
  rw [poll, hn]
  exact ⟨j, hpos, hle, hund, hstate, hlast⟩

/-- CNT counts down from the budget: B - j + 1 is left when the `j`-th sample decides. -/
theorem countAfter_decided {b : Word} {j : Nat} {r : PollResult} (hr : r ≠ .timeout) (hpos : 1 ≤ j)
    (hle : j ≤ b.toNat) : countAfter r j b = BitVec.ofNat 32 (b.toNat - j + 1) := by
  cases r with
  | timeout => exact absurd rfl hr
  | _ => simp only [countAfter]; bv_omega

/-- Nothing is left at a timeout. -/
theorem countAfter_timeout (b : Word) : countAfter .timeout b.toNat b = 0#32 := by simp [countAfter]

/-- Settles O22: the poll's run, with CNT counted from the budget. -/
theorem pollTakesAtMostItsBudget : Obligations.PollTakesAtMostItsBudget := by
  intro c watch b s hb
  obtain ⟨j, hpos, hle, hund, hstate, hlast⟩ := poll_run c watch s hb
  refine ⟨j, hpos, hle, fun k hk => decides_eq_none.mp (hund k hk), ?_⟩
  generalize poll c watch b s = p at hstate hlast
  obtain ⟨r, t⟩ := p
  dsimp only at hstate hlast ⊢
  rw [hstate]
  cases r with
  | ready => exact ⟨by rw [countAfter_decided (r := .ready) nofun hpos hle]; rfl, decides_eq_ready.mp hlast⟩
  | nack => exact ⟨by rw [countAfter_decided (r := .nack) nofun hpos hle]; rfl, decides_eq_nack.mp hlast⟩
  | timeout =>
    obtain ⟨rfl, hnone⟩ := hlast
    exact ⟨by rw [countAfter_timeout]; rfl, rfl, decides_eq_none.mp hnone⟩

/-- A result other than a timeout is what the poll's last sample decides. -/
theorem endsWith_decided {c : PollCond} {watch : Bool} {n j : Nat} {f : Flags} {r : PollResult}
    (h : endsWith c watch n j f r) (hr : r ≠ .timeout) : decides c watch f = some r := by
  cases r with
  | timeout => exact absurd rfl hr
  | _ => exact h

/-- The first sample that decides ends the poll. -/
theorem poll_of_decided {c : PollCond} {watch : Bool} {b : Word} {s : State} {j : Nat} {r : PollResult}
    (hpos : 1 ≤ j) (hle : j ≤ b.toNat) (hund : ∀ k, k + 1 < j → decides c watch (flagsAhead s k) = none)
    (hr : decides c watch (flagsAhead s (j - 1)) = some r) :
    poll c watch b s = (r, sampled j (BitVec.ofNat 32 (b.toNat - j + 1)) s) := by
  have hb : b ≠ 0#32 := by rintro rfl; simp at hle; omega
  obtain ⟨i, hi, hib, hundi, hstate, hlast⟩ := poll_run c watch s hb
  generalize poll c watch b s = p at hstate hlast
  obtain ⟨q, t⟩ := p
  dsimp only at hstate hlast
  obtain hlt | rfl | hgt := Nat.lt_trichotomy i j
  · have hnone := hund (i - 1) (by omega)
    by_cases hq : q = .timeout
    · subst hq
      have hlen := hlast.1
      omega
    · simp [endsWith_decided hlast hq] at hnone
  · have hq : q ≠ .timeout := by
      rintro rfl
      simp [hlast.2] at hr
    obtain rfl : q = r := by simpa [endsWith_decided hlast hq] using hr
    rw [hstate, countAfter_decided hq hi hib]
  · simp [hundi (j - 1) (by omega)] at hr

/-- A budget of samples that decide nothing is a timeout. -/
theorem poll_of_undecided {c : PollCond} {watch : Bool} {b : Word} {s : State} (hb : b ≠ 0#32)
    (hund : ∀ k, k < b.toNat → decides c watch (flagsAhead s k) = none) :
    poll c watch b s = (.timeout, sampled b.toNat 0#32 s) := by
  obtain ⟨i, hi, hib, -, hstate, hlast⟩ := poll_run c watch s hb
  generalize poll c watch b s = p at hstate hlast
  obtain ⟨q, t⟩ := p
  dsimp only at hstate hlast
  have hnone := hund (i - 1) (by omega)
  obtain rfl : q = .timeout := by
    by_contra hq
    simp [endsWith_decided hlast hq] at hnone
  obtain ⟨rfl, -⟩ := hlast
  rw [hstate, countAfter_timeout]

/-! ### WaitBusFree (R142) -/

theorem decides_busFree (f : Flags) : decides .busFree false f = if f.busy then none else some .ready := by
  cases h : f.busy <;> simp [decides, condHolds, h]

theorem waitBusFree_of_ready {b : Word} {s t : State}
    (h : poll .busFree false b { s with estate := .waitFree } = (.ready, t)) : waitBusFree b s = (.ok, t) := by
  simp [waitBusFree, h]

/-- The forced stop, its delay and the recheck that follow a timeout of the wait's poll. -/
def recheck (s : State) : State := luSample (dly Config.tBusfreeRetry (luStop s))

theorem waitBusFree_of_timeout {b : Word} {s t : State}
    (h : poll .busFree false b { s with estate := .waitFree } = (.timeout, t)) :
    waitBusFree b s = if (nextFlags t).busy then failPlain .busStuck (recheck t) else (.ok, recheck t) := by
  simp only [waitBusFree, h]
  rfl

theorem recheck_eq (s : State) :
    recheck s =
      { s with
        flagsIn := s.flagsIn.tail, nSmp := s.nSmp + 1,
        trace := s.trace ++ [.stop, .dly 2000, .smp (nextFlags s)] } := by
  simp [recheck, luSample, luStop, dly, emit, nextFlags, Config.tBusfreeRetry]

@[simp] theorem nextFlags_sampled (j : Nat) (n : Word) (s : State) : nextFlags (sampled j n s) = flagsAhead s j := by
  simp [nextFlags, flagsAhead, sampled, List.head?_drop]

/-- Settles O23: the poll ends with the first sample that shows the bus free, and times out when none does. -/
theorem waitBusFreeForcesOneStop : Obligations.WaitBusFreeForcesOneStop := by
  intro b s hb
  have hahead (k : Nat) : flagsAhead { s with estate := .waitFree } k = flagsAhead s k := rfl
  refine ⟨fun j hpos hle hbusy hfree => ?_, fun hbusy => ?_⟩
  · refine waitBusFree_of_ready (poll_of_decided hpos hle (fun k hk => ?_) ?_)
    · rw [hahead, decides_busFree, hbusy k hk, if_pos rfl]
    · rw [hahead, decides_busFree, hfree, if_neg nofun]
  · have hund (k : Nat) (hk : k < b.toNat) :
        decides .busFree false (flagsAhead { s with estate := .waitFree } k) = none := by
      rw [hahead, decides_busFree, hbusy k hk, if_pos rfl]
    rw [waitBusFree_of_timeout (poll_of_undecided hb hund), recheck_eq, nextFlags_sampled, hahead]
    cases (flagsAhead s b.toNat).busy <;> simp [failPlain, sampled, hahead, Nat.add_assoc]

end Sys2Proof.Proofs
end

section
/-! ## Proofs: the events of a transaction and how it ends (R143 to R151, R210)

`Makes sel es s t` says that a part of a transaction over the array `sel` makes the events `es`; `Tally` counts what is in
a list of events, `Ends` says how it ends. Each phase is one poll between events of its own (`Phase`); their sums, phase
after phase, give every outcome of a whole transaction (`XactOutcome`). -/

open Sys2Proof Sys2Proof.Machine Sys2Proof.Safety

namespace Sys2Proof.Proofs

/-! ### Lists of events -/

def isSample : Event → Bool
  | .smp _ => true
  | _ => false

/-- How many samples there are. -/
def samples (es : List Event) : Nat := es.countP isSample

/-- How many events other than samples there are. -/
def others (es : List Event) : Nat := es.countP fun e => !isSample e

@[simp] theorem samples_append (xs ys : List Event) : samples (xs ++ ys) = samples xs + samples ys := List.countP_append

@[simp] theorem others_append (xs ys : List Event) : others (xs ++ ys) = others xs + others ys := List.countP_append

@[simp] theorem samples_map_smp (fs : List Flags) : samples (fs.map .smp) = fs.length := by
  simp [samples, isSample, List.countP_map, Function.comp_def]

@[simp] theorem others_map_smp (fs : List Flags) : others (fs.map .smp) = 0 := by
  simp [others, isSample, List.countP_map, Function.comp_def]

@[simp] theorem txBytes_map_smp (fs : List Flags) : txBytes (fs.map .smp) = [] := by
  induction fs with
  | nil => rfl
  | cons f fs ih => exact ih

@[simp] theorem rxBytes_map_smp (fs : List Flags) : rxBytes (fs.map .smp) = [] := by
  induction fs with
  | nil => rfl
  | cons f fs ih => exact ih

theorem length_eq_samples_add_others (es : List Event) : es.length = samples es + others es :=
  by simpa [samples, others] using List.length_eq_countP_add_countP isSample (l := es)

/-- `es` hands `tx` to the line unit, receives `rx` bytes, and takes at most `m` samples and `n` other events. -/
structure Tally (es : List Event) (tx : List Byte) (rx m n : Nat) : Prop where
  tx      : txBytes es = tx
  rx      : (rxBytes es).length = rx
  samples : samples es ≤ m
  others  : others es ≤ n

theorem Tally.append {es fs : List Event} {tx tx' : List Byte} {rx rx' m m' n n' : Nat} (h : Tally es tx rx m n)
    (h' : Tally fs tx' rx' m' n') : Tally (es ++ fs) (tx ++ tx') (rx + rx') (m + m') (n + n') where
  tx := by rw [txBytes_append, h.tx, h'.tx]
  rx := by rw [rxBytes_append, List.length_append, h.rx, h'.rx]
  samples := by rw [samples_append]; exact Nat.add_le_add h.samples h'.samples
  others := by rw [others_append]; exact Nat.add_le_add h.others h'.others

theorem Tally.mono {es : List Event} {tx : List Byte} {rx m m' n n' : Nat} (h : Tally es tx rx m n) (hm : m ≤ m')
    (hn : n ≤ n') : Tally es tx rx m' n' :=
  ⟨h.tx, h.rx, h.samples.trans hm, h.others.trans hn⟩

/-- What a failure with code `c` does to the bus after its last sample (R148, R149). -/
def exitEvents : Code → List Event
  | .addressNack => [.nackClr, .stop, .dly 2000]
  | .dataNack => [.nackClr, .stop, .dly 2000]
  | _ => []

/-- The last sample `f` of a transaction that returns `c`. -/
def LastSample (c : Code) (f : Flags) : Prop :=
  (c = .addressNack ∨ c = .dataNack → f.nack = true) ∧ (c = .busStuck → f.busy = true)

/-- `es` ends with a sample that fits `c`, and then `tail`. -/
def Ends (c : Code) (tail es : List Event) : Prop := ∃ fs f, es = fs ++ [.smp f] ++ tail ∧ LastSample c f

theorem Ends.prepend {c : Code} {tail es : List Event} (h : Ends c tail es) (xs : List Event) :
    Ends c tail (xs ++ es) := by
  obtain ⟨fs, f, rfl, hf⟩ := h
  exact ⟨xs ++ fs, f, by simp, hf⟩

theorem Ends.append {c : Code} {tail es : List Event} (h : Ends c tail es) (xs : List Event) :
    Ends c (tail ++ xs) (es ++ xs) := by
  obtain ⟨fs, f, rfl, hf⟩ := h
  exact ⟨fs, f, by simp, hf⟩

theorem tally_map_smp (fs : List Flags) : Tally (fs.map .smp) [] 0 fs.length 0 :=
  ⟨txBytes_map_smp fs, congrArg _ (rxBytes_map_smp fs), (samples_map_smp fs).le, (others_map_smp fs).le⟩

/-- A NACK exit makes three events, a plain one none. -/
theorem tally_exitEvents (c : Code) : Tally (exitEvents c) [] 0 0 (exitEvents c).length := by
  cases c <;> exact ⟨rfl, rfl, le_rfl, le_rfl⟩

/-! ### What a part of a transaction makes -/

/-- From `s` to `t` a transaction over the array `sel` makes the events `es`: each sample and each byte received takes
ENV's next answer; PAY is left alone unless it is the array, and BUF has no byte beyond its last (R42). -/
structure Makes (sel : XSel) (es : List Event) (s t : State) : Prop where
  trace   : t.trace = s.trace ++ es
  flagsIn : t.flagsIn = s.flagsIn.drop (samples es)
  nSmp    : t.nSmp = s.nSmp + samples es
  rxIn    : t.rxIn = s.rxIn.drop (rxBytes es).length
  nRx     : t.nRx = s.nRx + (rxBytes es).length
  pay     : sel ≠ .pay → t.pay = s.pay
  beyond  : ∀ j, Config.bufSize ≤ j → bufByte t j = bufByte s j

variable {sel : XSel}

theorem Makes.trans {es fs : List Event} {s t u : State} (h : Makes sel es s t) (h' : Makes sel fs t u) :
    Makes sel (es ++ fs) s u where
  trace := by rw [h'.trace, h.trace, List.append_assoc]
  flagsIn := by rw [h'.flagsIn, h.flagsIn, List.drop_drop, samples_append]
  nSmp := by rw [h'.nSmp, h.nSmp, samples_append, Nat.add_assoc]
  rxIn := by rw [h'.rxIn, h.rxIn, List.drop_drop, rxBytes_append, List.length_append]
  nRx := by rw [h'.nRx, h.nRx, rxBytes_append, List.length_append, Nat.add_assoc]
  pay := fun hs => (h'.pay hs).trans (h.pay hs)
  beyond := fun j hj => (h'.beyond j hj).trans (h.beyond j hj)

/-- What TRACE, ENV's answers, PAY and BUF are. -/
def answers (s : State) : List Event × List Flags × Nat × List Byte × Nat × Payload × Memory × Nat :=
  (s.trace, s.flagsIn, s.nSmp, s.rxIn, s.nRx, s.pay, s.buf, s.epoch)

theorem makes_nothing {s t : State} (h : answers t = answers s) : Makes sel [] s t := by
  simp only [answers, Prod.mk.injEq] at h
  obtain ⟨htrace, hflags, hsmp, hrx, hn, hpay, hbuf, hepoch⟩ := h
  exact ⟨by simp [htrace], hflags, hsmp, hrx, hn, fun _ => hpay, fun j _ => by rw [bufByte, hbuf, hepoch]; rfl⟩

theorem Makes.of_answers_eq {es : List Event} {s t u : State} (h : Makes sel es s t) (hu : answers u = answers t) :
    Makes sel es s u := by
  simpa using h.trans (makes_nothing hu)

/-- An event that asks ENV nothing, and assignments to other registers. -/
theorem event_makes {e : Event} {s t : State} (hs : isSample e = false) (hr : rxBytes [e] = [])
    (h : answers t = answers (emit e s)) : Makes sel [e] s t := by
  have hn : samples [e] = 0 := by simp [samples, hs]
  have hemit : Makes sel [e] s (emit e s) :=
    ⟨rfl, by simp [hn], by simp [hn], by simp [hr], by simp [hr], fun _ => rfl, fun _ _ => rfl⟩
  exact hemit.of_answers_eq h

theorem luSample_makes (s : State) : Makes sel [.smp (nextFlags s)] s (luSample s) :=
  ⟨rfl, by simp [samples, isSample], rfl, rfl, rfl, fun _ => rfl, fun _ _ => rfl⟩

theorem luRxRead_makes (s : State) : Makes sel [.rx (nextRx s)] s (luRxRead s) :=
  ⟨rfl, rfl, rfl, by simp [rxBytes], rfl, fun _ => rfl, fun _ _ => rfl⟩

/-- A store makes no event, and none lands beyond the array. -/
theorem arrayStore_makes (i : Nat) (v : Byte) (s : State) : Makes sel [] s (arrayStore sel i v s) := by
  have hpay : sel ≠ .pay → (arrayStore sel i v s).pay = s.pay := by
    intro h
    cases sel with
    | buf => rw [arrayStore, bufStore_frame]
    | pay => exact absurd rfl h
    | const b => rfl
  have hbeyond : ∀ j, Config.bufSize ≤ j → bufByte (arrayStore sel i v s) j = bufByte s j := by
    intro j hj
    cases sel with
    | buf =>
      by_cases h : j = i
      · rw [arrayStore, bufStore, if_neg (by omega)]
      · exact bufByte_bufStore_other i j v s h
    | pay => rfl
    | const b => rfl
  refine ⟨?_, ?_, ?_, ?_, ?_, hpay, hbeyond⟩ <;> rw [arrayStore_frame] <;> simp [samples, rxBytes]

theorem sampled_makes (j : Nat) (n : Word) (s : State) :
    Makes sel (((List.range j).map (flagsAhead s)).map .smp) s (sampled j n s) where
  trace := by simp [sampled, Function.comp_def]
  flagsIn := by rw [samples_map_smp]; simp [sampled]
  nSmp := by rw [samples_map_smp]; simp [sampled]
  rxIn := by rw [rxBytes_map_smp]; rfl
  nRx := by rw [rxBytes_map_smp]; rfl
  pay := fun _ => rfl
  beyond := fun _ _ => rfl

/-! ### The phases, each a poll between events of its own (R142 to R146) -/

/-- A phase from `s` over the array `sel` hands `tx` to the line unit, receives nothing and takes at most `m` samples. It
ends with a sample and with what its code asks for; besides that it makes at most `n` other events. -/
def Phase (sel : XSel) (tx : List Byte) (m n : Nat) (s : State) (r : Code × State) : Prop :=
  ∃ es, Makes sel es s r.2 ∧ Tally es tx 0 m (n + (exitEvents r.1).length) ∧ Ends r.1 (exitEvents r.1) es

/-- A poll from `s` takes at most `n` samples; the last one shows a nack if the poll returns one. -/
def Polled (sel : XSel) (n : Nat) (s : State) (p : PollResult × State) : Prop :=
  ∃ fs f, Makes sel (fs ++ [.smp f]) s p.2 ∧ Tally (fs ++ [.smp f]) [] 0 n 0 ∧ (p.1 = .nack → f.nack = true)

theorem poll_polled (c : PollCond) (watch : Bool) {b : Word} (s : State) (hb : b ≠ 0#32) :
    Polled sel b.toNat s (poll c watch b s) := by
  obtain ⟨j, hpos, hle, -, hstate, hlast⟩ := poll_run c watch s hb
  obtain ⟨i, rfl⟩ : ∃ i, j = i + 1 := ⟨j - 1, by omega⟩
  have hmakes := sampled_makes (sel := sel) (i + 1) (countAfter (poll c watch b s).1 (i + 1) b) s
  have htally := (tally_map_smp ((List.range (i + 1)).map (flagsAhead s))).mono (m' := b.toNat) (by simpa using hle)
    le_rfl
  rw [← hstate] at hmakes
  rw [List.range_succ, List.map_append, List.map_append] at hmakes htally
  refine ⟨_, _, hmakes, htally, fun h => ?_⟩
  rw [h] at hlast
  exact (decides_eq_nack.mp hlast).2

section Phases

variable {pre fs : List Event} {f : Flags} {tx : List Byte} {m n k : Nat} {s t u v : State} {p : PollResult × State}
  {c : Code}

/-- A phase is its first events, its samples and its exit. -/
theorem phase_of_parts (hpre : Makes sel pre s t) (hcount : Tally pre tx 0 m n) (hs : Makes sel (fs ++ [.smp f]) t u)
    (hcount' : Tally (fs ++ [.smp f]) [] 0 k 0) (hexit : Makes sel (exitEvents c) u v) (hf : LastSample c f) :
    Phase sel tx (m + k) n s (c, v) := by
  have htally := (hcount.append hcount').append (tally_exitEvents c)
  exact ⟨_, (hpre.trans hs).trans hexit, by simpa using htally, pre ++ fs, f, by simp, hf⟩

/-- Nothing follows the poll: success, or the plain exit (R149). -/
theorem Polled.phase_plain (h : Polled sel k t p) (hpre : Makes sel pre s t) (hcount : Tally pre tx 0 0 n)
    (hu : answers u = answers p.2) (hc : exitEvents c = []) (hstuck : c ≠ .busStuck) : Phase sel tx k n s (c, u) := by
  obtain ⟨fs, f, hfs, htally, -⟩ := h
  have hf : LastSample c f := ⟨(by rintro (rfl | rfl) <;> cases hc), fun h => absurd h hstuck⟩
  exact Nat.zero_add k ▸ phase_of_parts hpre hcount hfs htally (hc ▸ makes_nothing hu) hf

/-- The NACK exit follows the poll (R148). -/
theorem Polled.phase_nack (h : Polled sel k t p) (hpre : Makes sel pre s t) (hcount : Tally pre tx 0 0 n)
    (hp : p.1 = .nack) (hc : c = .addressNack ∨ c = .dataNack) : Phase sel tx k n s (failNack c p.2) := by
  obtain ⟨fs, f, hfs, htally, hnack⟩ := h
  have hexit : Makes sel (exitEvents c) p.2 (failNack c p.2).2 := by
    obtain rfl | rfl := hc <;>
      exact ((event_makes (t := luClearNack _) rfl rfl rfl).trans (event_makes (t := luStop _) rfl rfl rfl)).trans
        (event_makes rfl rfl rfl)
  have hf : LastSample c f := ⟨fun _ => hnack hp, by obtain rfl | rfl := hc <;> exact nofun⟩
  exact Nat.zero_add k ▸ phase_of_parts hpre hcount hfs htally hexit hf

end Phases

theorem Phase.mono {tx : List Byte} {m m' n n' : Nat} {s : State} {r : Code × State} (h : Phase sel tx m n s r)
    (hm : m ≤ m') (hn : n ≤ n') : Phase sel tx m' n' s r := by
  obtain ⟨es, hes, hcount, hends⟩ := h
  exact ⟨es, hes, hcount.mono hm (Nat.add_le_add_right hn _), hends⟩

/-- The recheck that follows a timed-out wait; BusStuck shows in its sample (R142). -/
theorem recheck_phase {pre : List Event} {m n : Nat} {s t u : State} {c : Code} (hpre : Makes sel pre s t)
    (hcount : Tally pre [] 0 m n) (hu : answers u = answers (recheck t)) (hexit : exitEvents c = [])
    (hc : c = .busStuck → (nextFlags t).busy = true) : Phase sel [] (m + 1) (n + 2) s (c, u) := by
  have hstop : Makes sel [.stop, .dly 2000] t (dly Config.tBusfreeRetry (luStop t)) :=
    (event_makes (t := luStop t) rfl rfl rfl).trans (event_makes rfl rfl rfl)
  have hf : LastSample c (nextFlags t) := ⟨(by rintro (rfl | rfl) <;> cases hexit), hc⟩
  exact phase_of_parts (fs := []) (hpre.trans hstop) (hcount.append ⟨rfl, rfl, le_rfl, le_rfl⟩) (luSample_makes _)
    ⟨rfl, rfl, le_rfl, le_rfl⟩ (hexit ▸ makes_nothing hu) hf

/-- WaitBusFree is its poll alone, or, after a whole budget and the forced stop, one recheck (R142). -/
theorem waitBusFree_phase {b : Word} (s : State) (hb : b ≠ 0#32) :
    Phase sel [] (b.toNat + 1) 2 s (waitBusFree b s) := by
  have hp := poll_polled (sel := sel) .busFree false { s with estate := .waitFree } hb
  have hstart : Makes sel [] s { s with estate := .waitFree } := makes_nothing rfl
  unfold waitBusFree
  dsimp only
  split
  · obtain ⟨fs, f, hfs, hcount, -⟩ := hp
    split
    · exact recheck_phase (hstart.trans hfs) hcount rfl rfl fun _ => ‹_›
    · exact recheck_phase (hstart.trans hfs) hcount rfl rfl nofun
  · have hfree := hp.phase_plain (c := .ok) hstart ⟨rfl, rfl, le_rfl, le_rfl⟩ rfl rfl nofun
    exact hfree.mono (Nat.le_succ _) (Nat.zero_le 2)

/-- The events of a start phase before its poll (R143). -/
def startEvents : Dir → List Event
  | .write => [.start]
  | .read => [.ack true, .start]

theorem tally_startEvents (d : Dir) : Tally (startEvents d) [] 0 0 2 := by
  cases d
  · exact ⟨rfl, rfl, le_rfl, by decide⟩
  · exact ⟨rfl, rfl, le_rfl, le_rfl⟩

theorem startAck_makes (d : Dir) (s : State) :
    Makes sel (startEvents d) s (luStart (startAck d { s with estate := .start })) := by
  have hack : Makes sel [.ack true] s (luSetAck true { s with estate := .start }) := event_makes rfl rfl rfl
  cases d with
  | write => exact event_makes rfl rfl rfl
  | read => exact hack.trans (event_makes (e := .start) rfl rfl rfl)

theorem startPhase_phase (d : Dir) {b : Word} (s : State) (hb : b ≠ 0#32) :
    Phase sel [] b.toNat 2 s (startPhase d b s) := by
  have hpre := startAck_makes (sel := sel) d s
  have hp := poll_polled (sel := sel) .txReady false (luStart (startAck d { s with estate := .start })) hb
  unfold startPhase
  dsimp only
  split
  · exact hp.phase_plain hpre (tally_startEvents d) rfl rfl nofun
  · exact hp.phase_plain hpre (tally_startEvents d) rfl rfl nofun

theorem addressPhase_phase (a : BusAddr) (d : Dir) {b : Word} (s : State) (hb : b ≠ 0#32) :
    Phase sel [addressByte a d] b.toNat 1 s (addressPhase a d b s) := by
  have hpre : Makes sel [.tx (addressByte a d)] s (luTxWrite (addressByte a d) { s with estate := .addr }) :=
    event_makes rfl rfl rfl
  have hp := poll_polled (sel := sel) .txReady true (luTxWrite (addressByte a d) { s with estate := .addr }) hb
  unfold addressPhase
  dsimp only
  split
  · exact hp.phase_plain hpre ⟨rfl, rfl, le_rfl, le_rfl⟩ rfl rfl nofun
  · exact hp.phase_nack hpre ⟨rfl, rfl, le_rfl, le_rfl⟩ ‹_› (.inl rfl)
  · exact hp.phase_plain hpre ⟨rfl, rfl, le_rfl, le_rfl⟩ rfl rfl nofun

theorem dataTx_phase (v : Byte) {b : Word} (s : State) (hb : b ≠ 0#32) :
    Phase sel [v] b.toNat 1 s (dataTx v b s) := by
  have hpre : Makes sel [.tx v] s (luTxWrite v s) := event_makes rfl rfl rfl
  have hp := poll_polled (sel := sel) .txReady true (luTxWrite v s) hb
  unfold dataTx
  dsimp only
  split
  · exact hp.phase_plain hpre ⟨rfl, rfl, le_rfl, le_rfl⟩ rfl rfl nofun
  · exact hp.phase_nack hpre ⟨rfl, rfl, le_rfl, le_rfl⟩ ‹_› (.inr rfl)
  · exact hp.phase_plain hpre ⟨rfl, rfl, le_rfl, le_rfl⟩ rfl rfl nofun

/-- The policy switch before the last byte received (R146). -/
def ackEvents (last : Bool) : List Event := if last then [.ack false] else []

theorem lastAck_makes (last : Bool) (s : State) : Makes sel (ackEvents last) s (lastAck last s) := by
  cases last
  · exact makes_nothing rfl
  · exact event_makes rfl rfl rfl

theorem tally_ackEvents (last : Bool) : Tally (ackEvents last) [] 0 0 (ackEvents last).length := by
  cases last <;> exact ⟨rfl, rfl, le_rfl, le_rfl⟩

/-- DataRx times out, or it fetches a byte after its poll (R146). -/
theorem dataRx_phase (last : Bool) (i : Nat) {b : Word} (s : State) (hb : b ≠ 0#32) :
    ((dataRx last sel i b s).1 = .dataTimeout ∧
      Phase sel [] b.toNat (ackEvents last).length s (dataRx last sel i b s)) ∨
    ((dataRx last sel i b s).1 = .ok ∧ ∃ t v, Phase sel [] b.toNat (ackEvents last).length s (.ok, t) ∧
      Makes sel [.rx v] t (dataRx last sel i b s).2) := by
  have hpre := lastAck_makes (sel := sel) last s
  have hcount := tally_ackEvents last
  have hp := poll_polled (sel := sel) .rxReady false (lastAck last s) hb
  have hread (t : State) : Makes sel [.rx (nextRx t)] t (arrayStore sel i (nextRx t) (luRxRead t)) := by
    simpa using (luRxRead_makes t).trans (arrayStore_makes i _ _)
  unfold dataRx
  dsimp only
  split
  · exact .inl ⟨rfl, hp.phase_plain hpre hcount rfl rfl nofun⟩
  · exact .inr ⟨rfl, _, _, hp.phase_plain hpre hcount rfl rfl nofun, hread _⟩

end Sys2Proof.Proofs
end

section
/-! ## Proofs: every outcome of a transaction (R150, R151) -/

open Sys2Proof Sys2Proof.Machine Sys2Proof.Safety

namespace Sys2Proof.Proofs

variable {sel : XSel}

/-! ### One data byte (R145, R146, R150) -/

/-- The data bytes with index `i` up to `i + n - 1` as a transaction of direction `d` hands them to the line unit. -/
def dataSent (d : Dir) (sel : XSel) (s : State) (i n : Nat) : List Byte :=
  match d with
  | .write => (List.range n).map fun k => arrayByte sel s (i + k)
  | .read => []

/-- How many of `n` data bytes a transaction of direction `d` receives. -/
def dataReceived (d : Dir) (n : Nat) : Nat :=
  match d with
  | .write => 0
  | .read => n

/-- The failures of a data byte (R151). -/
def dataFailures : Dir → List Code
  | .write => [.dataTimeout, .dataNack]
  | .read => [.dataTimeout]

/-- What follows the last sample of a data byte that succeeds. -/
def afterByte (d : Dir) (v : Byte) : List Event :=
  match d with
  | .write => []
  | .read => [.rx v]

/-- The first byte, and the others as they still stand in the array after it. -/
theorem dataSent_succ {d : Dir} {s t : State} (h : d = .write → ∀ j, arrayByte sel t j = arrayByte sel s j)
    (i n : Nat) :
    dataSent d sel s i (n + 1) = dataSent d sel s i 1 ++ dataSent d sel t (i + 1) n := by
  cases d with
  | write => simp [dataSent, List.range_succ_eq_map, Function.comp_def, h rfl, Nat.add_assoc, Nat.add_comm 1]
  | read => rfl

theorem dataSent_congr {d : Dir} {s t : State} (h : ∀ j, arrayByte sel t j = arrayByte sel s j) (i n : Nat) :
    dataSent d sel t i n = dataSent d sel s i n := by
  cases d <;> simp [dataSent, h]

theorem dataReceived_succ (d : Dir) (n : Nat) : dataReceived d (n + 1) = dataReceived d 1 + dataReceived d n := by
  cases d <;> simp [dataReceived, Nat.add_comm]

/-- A data byte from `s`: it succeeds and the index moves on, or it fails and ends the transaction. -/
inductive ByteOutcome (d : Dir) (sel : XSel) (l i n : Nat) (s : State) (r : Code × State) : Prop
  | moved (hc : r.1 = .ok) (hx : r.2.xidx = BitVec.ofNat 8 (i + 1)) (es : List Event) (v : Byte)
      (hes : Makes sel es s r.2)
      (hcount : Tally es (dataSent d sel s i 1) (dataReceived d 1) n (if i + 1 = l then 2 else 1))
      (hends : Ends .ok (afterByte d v) es)
  | failed (hc : r.1 ∈ dataFailures d) (hx : r.2.xidx = s.xidx) (he : r.2.estate = .failed)
      (h : Phase sel (dataSent d sel s i 1) n 1 s r)

theorem dataTx_xidx (v : Byte) (b : Word) (s : State) : (dataTx v b s).2.xidx = s.xidx := by
  unfold dataTx
  dsimp only
  split <;> simp [failPlain, failNack]

theorem dataRx_xidx (last : Bool) (i : Nat) (b : Word) (s : State) : (dataRx last sel i b s).2.xidx = s.xidx := by
  have hx : (lastAck last s).xidx = s.xidx := by cases last <;> rfl
  unfold dataRx
  dsimp only
  split
  · simp [failPlain, hx]
  · rw [arrayStore_frame]; simp [hx]

theorem dataTx_outcome (l i : Nat) {b : Word} (s : State) (hb : b ≠ 0#32) :
    ByteOutcome .write sel l i b.toNat s (dataByte .write sel l i b s) := by
  have hx := dataTx_xidx (arrayByte sel s i) b s
  have hp := dataTx_phase (sel := sel) (arrayByte sel s i) s hb
  have hcode := dataTx_code (arrayByte sel s i) b s
  rw [dataByte_eq, dataPhase]
  generalize dataTx (arrayByte sel s i) b s = r at hx hp hcode ⊢
  obtain ⟨c, t⟩ := r
  dsimp only at hx hp hcode
  obtain rfl | ⟨hfail, he⟩ := hcode
  · obtain ⟨es, hes, hcount, hends⟩ := hp
    exact .moved rfl rfl es 0#8 (hes.of_answers_eq rfl) (hcount.mono le_rfl (by simp [exitEvents]; split <;> omega)) hends
  · have hne : c ≠ .ok := by obtain rfl | rfl := hfail <;> nofun
    rw [andThen_of_ne hne]
    exact .failed (by obtain rfl | rfl := hfail <;> simp [dataFailures]) hx he hp

theorem dataRx_outcome (l i : Nat) {b : Word} (s : State) (hb : b ≠ 0#32) :
    ByteOutcome .read sel l i b.toNat s (dataByte .read sel l i b s) := by
  have hx := dataRx_xidx (sel := sel) (decide (i + 1 = l)) i b s
  have hp := dataRx_phase (sel := sel) (decide (i + 1 = l)) i s hb
  have hcode := dataRx_code (decide (i + 1 = l)) sel i b s
  have hack : (ackEvents (decide (i + 1 = l))).length = if i + 1 = l then 1 else 0 := by
    by_cases h : i + 1 = l <;> simp [ackEvents, h]
  rw [dataByte_eq, dataPhase]
  generalize dataRx (decide (i + 1 = l)) sel i b s = r at hx hp hcode ⊢
  obtain ⟨c, t⟩ := r
  dsimp only at hx hp hcode
  rw [hack] at hp
  obtain ⟨rfl, hp⟩ | ⟨rfl, u, v, ⟨es, hes, hcount, hends⟩, hv⟩ := hp
  · obtain h | ⟨-, he⟩ := hcode
    · cases h
    · exact .failed (by simp [dataFailures, andThen]) hx he (hp.mono le_rfl (by split <;> omega))
  · have hbyte : Tally [.rx v] [] 1 0 1 := ⟨rfl, rfl, le_rfl, le_rfl⟩
    have hall : Makes sel (es ++ [.rx v]) s (setXidx (i + 1) t) := (hes.trans hv).of_answers_eq rfl
    have hends' : Ends .ok [.rx v] (es ++ [.rx v]) := hends.append [.rx v]
    refine .moved rfl rfl _ v hall ?_ hends'
    exact (hcount.append hbyte).mono le_rfl (by simp [exitEvents]; split <;> omega)

theorem dataByte_outcome (d : Dir) (l i : Nat) {b : Word} (s : State) (hb : b ≠ 0#32) :
    ByteOutcome d sel l i b.toNat s (dataByte d sel l i b s) := by
  cases d
  · exact dataTx_outcome l i s hb
  · exact dataRx_outcome l i s hb

/-! ### The data loop (R150) -/

/-- The data bytes of a write stand in its array until it ends. -/
theorem dataByte_write_array (l i : Nat) (b : Word) (s : State) (j : Nat) :
    arrayByte sel (dataByte .write sel l i b s).2 j = arrayByte sel s j :=
  (andThen_quiet (dataTx_quiet (arrayByte sel s i) b s) (setXidx_quiet (i + 1))).arrayByte sel j

/-- The data loop from index `i` of `l`, with `n` bytes to go: all of them are moved, or it fails at one of them. -/
inductive LoopOutcome (d : Dir) (sel : XSel) (l : Nat) (b : Word) (i n : Nat) (s : State) (r : Code × State) : Prop
  | moved (hc : r.1 = .ok) (hx : r.2.xidx.toNat = l) (es : List Event)
      (hes : Makes sel es s r.2)
      (hcount : Tally es (dataSent d sel s i n) (dataReceived d n) (n * b.toNat) (if n = 0 then 0 else n + 1))
      (hends : n = 0 ∧ es = [] ∨ ∃ v, Ends .ok (afterByte d v) es)
  | failed (k : Nat) (hk : k < n) (hc : r.1 ∈ dataFailures d) (hx : r.2.xidx.toNat = i + k) (he : r.2.estate = .failed)
      (es : List Event) (hes : Makes sel es s r.2)
      (hcount : Tally es (dataSent d sel s i (k + 1)) (dataReceived d k) (n * b.toNat) (n + 3))
      (hends : Ends r.1 (exitEvents r.1) es)

section Loop

variable {d : Dir} {l i n : Nat} {b : Word} {s t : State} {r : Code × State}

theorem LoopOutcome.of_failed (hx : s.xidx.toNat = i) (hc : r.1 ∈ dataFailures d) (hx' : r.2.xidx = s.xidx)
    (he : r.2.estate = .failed) (h : Phase sel (dataSent d sel s i 1) b.toNat 1 s r) :
    LoopOutcome d sel l b i (n + 1) s r := by
  have hexit : (exitEvents r.1).length ≤ 3 := by cases r.1 <;> decide
  have hnone : dataReceived d 0 = 0 := by cases d <;> rfl
  obtain ⟨es, hes, hcount, hends⟩ := h
  refine .failed 0 (Nat.succ_pos n) hc (by rw [hx', hx]; rfl) he es hes ?_ hends
  rw [hnone]
  exact hcount.mono (Nat.le_mul_of_pos_left _ (Nat.succ_pos n)) (by omega)

theorem LoopOutcome.after_moved {es : List Event} {v : Byte} (hn : i + (n + 1) = l)
    (harray : d = .write → ∀ j, arrayByte sel t j = arrayByte sel s j) (hes : Makes sel es s t)
    (hcount : Tally es (dataSent d sel s i 1) (dataReceived d 1) b.toNat (if i + 1 = l then 2 else 1))
    (hends : Ends .ok (afterByte d v) es) (h : LoopOutcome d sel l b (i + 1) n t r) :
    LoopOutcome d sel l b i (n + 1) s r := by
  have hbudget : (n + 1) * b.toNat = b.toNat + n * b.toNat := by rw [Nat.succ_mul, Nat.add_comm]
  cases h with
  | moved hc hx es' hes' hcount' hends' =>
    refine .moved hc hx (es ++ es') (hes.trans hes') ?_ ?_
    · rw [dataSent_succ harray, dataReceived_succ, hbudget, if_neg (Nat.succ_ne_zero n)]
      exact (hcount.append hcount').mono le_rfl (by split <;> split <;> omega)
    · obtain ⟨-, rfl⟩ | ⟨w, hw⟩ := hends'
      · exact .inr ⟨v, by rwa [List.append_nil]⟩
      · exact .inr ⟨w, hw.prepend es⟩
  | failed k hk hc hx he es' hes' hcount' hends' =>
    refine .failed (k + 1) (by omega) hc (by rw [hx]; omega) he (es ++ es') (hes.trans hes') ?_ (hends'.prepend es)
    rw [dataSent_succ harray, dataReceived_succ, hbudget]
    exact (hcount.append hcount').mono le_rfl (by split <;> omega)

end Loop

theorem dataLoop_outcome (d : Dir) {l : Nat} {b : Word} {n i : Nat} (s : State) (hb : b ≠ 0#32) (hn : i + n = l)
    (hl : l < 256) (hx : s.xidx.toNat = i) :
    LoopOutcome d sel l b i n s (dataLoop d sel l b n i s) := by
  induction n generalizing i s with
  | zero =>
    have hcount : Tally [] (dataSent d sel s i 0) (dataReceived d 0) (0 * b.toNat) 0 := by
      cases d <;> exact ⟨rfl, rfl, Nat.zero_le _, le_rfl⟩
    exact .moved rfl (hx.trans hn) [] (makes_nothing rfl) hcount (.inl ⟨rfl, rfl⟩)
  | succ n ih =>
    rw [dataLoop]
    have harray : d = .write → ∀ j, arrayByte sel (dataByte d sel l i b s).2 j = arrayByte sel s j := by
      rintro rfl
      exact dataByte_write_array l i b s
    cases dataByte_outcome (sel := sel) d l i s hb with
    | failed hc hx' he h =>
      have hne : (dataByte d sel l i b s).1 ≠ .ok := fun hok => by cases d <;> simp [hok, dataFailures] at hc
      rw [andThen_of_ne hne]
      exact .of_failed hx hc hx' he h
    | moved hc hx' es v hes hcount hends =>
      rw [andThen_of_ok hc]
      have hnext : (dataByte d sel l i b s).2.xidx.toNat = i + 1 := by
        rw [hx', BitVec.toNat_ofNat]
        exact Nat.mod_eq_of_lt (by omega)
      exact .after_moved hn harray hes hcount hends (ih _ (by omega) hnext)

/-! ### The whole transaction (R150) -/

/-- Every outcome of a transaction of `l` bytes, by the phase it ends in: the code, the index, what it handed to the line
unit and received, and how it left the bus. -/
inductive XactOutcome (d : Dir) (a : BusAddr) (l : Byte) (sel : XSel) (s : State) (r : Code × State)
    (es : List Event) : Prop
  | done (hc : r.1 = .ok) (hx : r.2.xidx = l) (he : r.2.estate = .done)
      (htx : txBytes es = addressByte a d :: dataSent d sel s 0 l.toNat)
      (hrx : (rxBytes es).length = dataReceived d l.toNat) (v : Byte)
      (hends : Ends .ok (afterByte d v ++ [.stop, .dly 2000]) es)
  | notAddressed (hc : r.1 = .busStuck ∨ r.1 = .startTimeout) (hx : r.2.xidx = 0#8) (he : r.2.estate = .failed)
      (htx : txBytes es = []) (hrx : rxBytes es = []) (hends : Ends r.1 (exitEvents r.1) es)
  | notAnswered (hc : r.1 = .addressNack ∨ r.1 = .addressTimeout) (hx : r.2.xidx = 0#8) (he : r.2.estate = .failed)
      (htx : txBytes es = [addressByte a d]) (hrx : rxBytes es = []) (hends : Ends r.1 (exitEvents r.1) es)
  | brokenOff (hc : r.1 ∈ dataFailures d) (hx : r.2.xidx.toNat < l.toNat) (he : r.2.estate = .failed)
      (htx : txBytes es = addressByte a d :: dataSent d sel s 0 (r.2.xidx.toNat + 1))
      (hrx : (rxBytes es).length = dataReceived d r.2.xidx.toNat) (hends : Ends r.1 (exitEvents r.1) es)

/-- The bounds of rule R150 on the events of a transaction of `l` bytes. -/
def Bounded (l : Byte) (b : Word) (es : List Event) : Prop :=
  samples es ≤ (l.toNat + 3) * b.toNat + 1 ∧ others es ≤ l.toNat + 8

theorem stopPhase_makes (s : State) : Makes sel [.stop, .dly 2000] s (stopPhase s) :=
  (event_makes (t := luStop s) rfl rfl rfl).trans (event_makes rfl rfl rfl)

/-- A phase after phases that succeeded. -/
theorem Phase.after {tx tx' : List Byte} {m m' n n' : Nat} {s : State} {r r' : Code × State} (h : Phase sel tx m n s r)
    (hok : r.1 = .ok) (h' : Phase sel tx' m' n' r.2 r') : Phase sel (tx ++ tx') (m + m') (n + n') s r' := by
  obtain ⟨es, hes, hcount, -⟩ := h
  obtain ⟨es', hes', hcount', hends⟩ := h'
  rw [hok] at hcount
  exact ⟨es ++ es', hes.trans hes', (hcount.append hcount').mono le_rfl (by simp [exitEvents]; omega), hends.prepend es⟩

/-- A transaction that fails before its data phase, in the bounds of rule R150. -/
theorem Phase.bounded {tx : List Byte} {m n : Nat} {s : State} {r : Code × State} {l : Byte} {b : Word}
    (h : Phase sel tx m n s r) (hm : m ≤ 3 * b.toNat + 1) (hn : n ≤ 5) :
    ∃ es, Makes sel es s r.2 ∧ Bounded l b es ∧ txBytes es = tx ∧ rxBytes es = [] ∧ Ends r.1 (exitEvents r.1) es := by
  obtain ⟨es, hes, hcount, hends⟩ := h
  have hexit : (exitEvents r.1).length ≤ 3 := by cases r.1 <;> decide
  have hbudget : 3 * b.toNat ≤ (l.toNat + 3) * b.toNat := Nat.mul_le_mul_right _ (Nat.le_add_left 3 _)
  have hsamples := hcount.samples
  have hothers := hcount.others
  exact ⟨es, hes, ⟨by omega, by omega⟩, hcount.tx, List.length_eq_zero_iff.mp hcount.rx, hends⟩

/-- The events of a transaction from `s`, in the bounds of rule R150, and the outcome they belong to. -/
def XactRun (d : Dir) (a : BusAddr) (l : Byte) (b : Word) (sel : XSel) (s : State) (r : Code × State) : Prop :=
  ∃ es, Makes sel es s r.2 ∧ Bounded l b es ∧ XactOutcome d a l sel s r es

/-- The phases of a transaction from `s` before its data phase: the index is still 0 and the array as it was. -/
structure Opening (sel : XSel) (tx : List Byte) (m n : Nat) (s : State) (r : Code × State) : Prop where
  phase : Phase sel tx m n s r
  xidx  : r.2.xidx = 0#8
  array : ∀ j, arrayByte sel r.2 j = arrayByte sel s j

section Opening

variable {d : Dir} {a : BusAddr} {l : Byte} {b : Word} {tx tx' : List Byte} {m m' n n' : Nat} {p : Bool} {s : State}
  {r r' : Code × State}

theorem Opening.next (h : Opening sel tx m n s r) (hok : r.1 = .ok) (h' : Phase sel tx' m' n' r.2 r')
    (hx : r'.2.xidx = r.2.xidx) (hq : Quiet p r.2 r'.2) : Opening sel (tx ++ tx') (m + m') (n + n') s r' where
  phase := h.phase.after hok h'
  xidx := hx.trans h.xidx
  array := fun j => (hq.arrayByte sel j).trans (h.array j)

theorem Opening.notAddressed (h : Opening sel [] m n s r) (hm : m ≤ 3 * b.toNat + 1) (hn : n ≤ 5)
    (hc : r.1 = .busStuck ∨ r.1 = .startTimeout) (he : r.2.estate = .failed) : XactRun d a l b sel s r := by
  obtain ⟨es, hes, hbound, htx, hrx, hends⟩ := h.phase.bounded (l := l) hm hn
  exact ⟨es, hes, hbound, .notAddressed hc h.xidx he htx hrx hends⟩

theorem Opening.notAnswered (h : Opening sel [addressByte a d] m n s r) (hm : m ≤ 3 * b.toNat + 1) (hn : n ≤ 5)
    (hc : r.1 = .addressNack ∨ r.1 = .addressTimeout) (he : r.2.estate = .failed) : XactRun d a l b sel s r := by
  obtain ⟨es, hes, hbound, htx, hrx, hends⟩ := h.phase.bounded (l := l) hm hn
  exact ⟨es, hes, hbound, .notAnswered hc h.xidx he htx hrx hends⟩

/-- The data phase and the stop phase of a transaction whose address was acknowledged. -/
theorem Opening.data (h : Opening sel [addressByte a d] m n s r) (hok : r.1 = .ok) (hm : m ≤ 3 * b.toNat + 1)
    (hn : n ≤ 5) (hl : 0 < l.toNat) (hb : b ≠ 0#32) :
    XactRun d a l b sel s
      (andThen (dataLoop d sel l.toNat b l.toNat 0 { r.2 with estate := .data }) fun t => (.ok, stopPhase t)) := by
  obtain ⟨⟨es, hes, hcount, -⟩, hx, harray⟩ := h
  rw [hok] at hcount
  have hloop := dataLoop_outcome (sel := sel) d { r.2 with estate := .data } hb (Nat.zero_add l.toNat) l.isLt
    (by simp [hx])
  have hstart : Makes sel es s { r.2 with estate := .data } := hes.of_answers_eq rfl
  have hsent (k : Nat) : dataSent d sel { r.2 with estate := .data } 0 k = dataSent d sel s 0 k :=
    dataSent_congr harray 0 k
  have hbudget : (l.toNat + 3) * b.toNat = 3 * b.toNat + l.toNat * b.toNat := by rw [Nat.add_mul, Nat.add_comm]
  generalize dataLoop d sel l.toNat b l.toNat 0 { r.2 with estate := .data } = q at hloop ⊢
  cases hloop with
  | moved hc hx es' hes' hcount' hends =>
    obtain ⟨h0, -⟩ | ⟨v, hends⟩ := hends
    · omega
    have hstop : Tally [.stop, .dly 2000] [] 0 0 2 := ⟨rfl, rfl, le_rfl, le_rfl⟩
    have hall := (hcount.append hcount').append hstop
    rw [andThen_of_ok hc]
    refine ⟨es ++ es' ++ [.stop, .dly 2000], (hstart.trans hes').trans (stopPhase_makes _), ⟨?_, ?_⟩, ?_⟩
    · exact hall.samples.trans (by omega)
    · exact hall.others.trans (by simp [exitEvents]; split <;> omega)
    · refine .done rfl (BitVec.eq_of_toNat_eq hx) rfl (by simpa [hsent] using hall.tx) (by simpa using hall.rx) v ?_
      exact (hends.prepend es).append _
  | failed k hk hc hx he es' hes' hcount' hends =>
    have hall := hcount.append hcount'
    have hne : q.1 ≠ .ok := fun hok => by cases d <;> simp [hok, dataFailures] at hc
    obtain rfl : q.2.xidx.toNat = k := by omega
    rw [andThen_of_ne hne]
    refine ⟨es ++ es', hstart.trans hes', ⟨?_, ?_⟩, ?_⟩
    · exact hall.samples.trans (by omega)
    · exact hall.others.trans (by simp [exitEvents]; omega)
    · exact .brokenOff hc hk he (by simpa [hsent] using hall.tx) (by simpa using hall.rx) (hends.prepend es)

end Opening

theorem xactPhases_run (d : Dir) (a : BusAddr) {l : Byte} {b : Word} {s : State} (hl : 0 < l.toNat) (hb : b ≠ 0#32)
    (hx : s.xidx = 0#8) : XactRun d a l b sel s (xactPhases d a l b sel s) := by
  unfold xactPhases
  have h1 : Opening sel [] (b.toNat + 1) 2 s (waitBusFree b s) :=
    ⟨waitBusFree_phase s hb, (waitBusFree_xidx b s).trans hx, (waitBusFree_quiet b s).arrayByte sel⟩
  obtain hok1 | ⟨hc, he⟩ := waitBusFree_code b s
  case inr =>
    rw [andThen_of_ne (by rw [hc]; decide)]
    exact h1.notAddressed (by omega) (by omega) (.inl hc) he
  rw [andThen_of_ok hok1]
  generalize waitBusFree b s = r1 at h1 hok1 ⊢
  have h2 := h1.next hok1 (startPhase_phase d r1.2 hb) (startPhase_xidx d b r1.2) (startPhase_quiet d b r1.2)
  obtain hok2 | ⟨hc, he⟩ := startPhase_code d b r1.2
  case inr =>
    rw [andThen_of_ne (by rw [hc]; decide)]
    exact h2.notAddressed (by omega) (by omega) (.inr hc) he
  rw [andThen_of_ok hok2]
  generalize startPhase d b r1.2 = r2 at h2 hok2 ⊢
  have h3 := h2.next hok2 (addressPhase_phase a d r2.2 hb) (addressPhase_xidx a d b r2.2)
    (addressPhase_quiet a d b r2.2)
  obtain hok3 | ⟨hc, he⟩ := addressPhase_code a d b r2.2
  case inr =>
    rw [andThen_of_ne (by obtain h | h := hc <;> rw [h] <;> decide)]
    exact h3.notAnswered (by omega) (by omega) hc he
  rw [andThen_of_ok hok3]
  exact h3.data hok3 (by omega) (by omega) hl hb

theorem XactOutcome.from_array {d : Dir} {a : BusAddr} {l : Byte} {s t : State} {r : Code × State} {es : List Event}
    (h : XactOutcome d a l sel t r es) (ht : ∀ j, arrayByte sel t j = arrayByte sel s j) :
    XactOutcome d a l sel s r es := by
  have hsent (k : Nat) : dataSent d sel t 0 k = dataSent d sel s 0 k := dataSent_congr ht 0 k
  cases h with
  | done hc hx he htx hrx v hends => exact .done hc hx he (by rw [← hsent]; exact htx) hrx v hends
  | notAddressed hc hx he htx hrx hends => exact .notAddressed hc hx he htx hrx hends
  | notAnswered hc hx he htx hrx hends => exact .notAnswered hc hx he htx hrx hends
  | brokenOff hc hx he htx hrx hends => exact .brokenOff hc hx he (by rw [← hsent]; exact htx) hrx hends

/-- Every outcome of a transaction whose budget and length are not 0. -/
theorem xact_run (d : Dir) (a : BusAddr) {l : Byte} {b : Word} (s : State) (hl : 0 < l.toNat) (hb : b ≠ 0#32) :
    XactRun d a l b sel s (xact d a l b sel s) := by
  obtain ⟨es, hes, hbound, ho⟩ := xactPhases_run (sel := sel) (s := latchXact d a l b sel s) d a hl hb rfl
  have harray (j : Nat) : arrayByte sel (latchXact d a l b sel s) j = arrayByte sel s j := by cases sel <;> rfl
  have hlatch : Makes sel [] s (latchXact d a l b sel s) := makes_nothing rfl
  refine ⟨es, (hlatch.trans hes).of_answers_eq rfl, hbound, ?_⟩
  cases ho.from_array harray with
  | done hc hx he htx hrx v hends => exact .done hc hx he htx hrx v hends
  | notAddressed hc hx he htx hrx hends => exact .notAddressed hc hx he htx hrx hends
  | notAnswered hc hx he htx hrx hends => exact .notAnswered hc hx he htx hrx hends
  | brokenOff hc hx he htx hrx hends => exact .brokenOff hc hx he htx hrx hends

end Sys2Proof.Proofs
end

section
/-! ## Proofs: WRITE and READ for every ENV (R150, R151, R154, R155, R210)

The two commands are one transaction over BUF each. `Transfer` gathers what is known of it, for the result `r` of the
transaction; each statement then reads off what it needs. -/

open Sys2Proof Sys2Proof.Machine Sys2Proof.Safety

namespace Sys2Proof.Proofs

/-! ### The two commands are one transaction each -/

/-- WRITE or READ, by its direction. -/
def transfer : Dir → BusAddr → Byte → Instr
  | .write => .write
  | .read => .read

/-- WRITE or READ completes with the result of its transaction. -/
def answer (r : Code × State) : State := complete ⟨r.1, .none, r.2.xidx⟩ r.2

/-- The state in which the transaction of WRITE or READ starts, just accepted (R197). -/
def transferStart (d : Dir) (a : BusAddr) (l : Byte) (s : State) : State :=
  acceptCommand (transfer d a l) (takeWord (encode (transfer d a l)) s)

/-- The policy a read of `l` bytes leaves, by its code and the number of bytes received (R54, R143, R146). -/
def readPolicy (c : Code) (n l : Nat) (before : Bool) : Bool :=
  match c with
  | .ok => false
  | .busStuck => before
  | .dataTimeout => decide (n + 1 ≠ l)
  | _ => true

/-- What a WRITE or READ accepted in `s`, whose transaction returned `c` and `t`, can have changed: the registers named,
those of them without a value of their own to what they are in `t` (R151, R154, R155). -/
def transferFrame (d : Dir) (a : BusAddr) (l : Byte) (s : State) (c : Code) (t : State) : State :=
  { s with
    cmd := encode (transfer d a l), opcur := opField (encode (transfer d a l)), busy := true, done := false,
    cmdOvr := false, opBudget := s.tbudget, xdir := d, xaddr := a, xlen := l, xb := s.tbudget, xsel := .buf, xcode := c,
    estate := t.estate, ackpol := t.ackpol, buf := t.buf, xidx := t.xidx, cnt := t.cnt, trace := t.trace,
    flagsIn := t.flagsIn, rxIn := t.rxIn, nSmp := t.nSmp, nRx := t.nRx }

/-- The transaction of a WRITE or READ accepted in `s` returns `r`; `es` are its events. -/
structure Transfer (d : Dir) (a : BusAddr) (l : Byte) (s : State) (r : Code × State) (es : List Event) : Prop where
  makes   : Makes .buf ([.cmd (encode (transfer d a l))] ++ es) s r.2
  bounded : Bounded l s.tbudget es
  outcome : XactOutcome d a l .buf s r es
  frame   : r.2 = transferFrame d a l s r.1 r.2
  written : d = .write → Quiet s.ackpol s r.2
  fetched : d = .read → Fetched .buf 0 r.2.xidx.toNat s r.2 ∧
    r.2.ackpol = readPolicy r.1 r.2.xidx.toNat l.toNat s.ackpol

section

variable {d : Dir} {a : BusAddr} {l : Byte} {s t : State} {r : Code × State} {es : List Event} {sel : XSel}

/-- What the operand check of WRITE and READ gives (R107). -/
theorem transfer_operands (h : Accepts (transfer d a l) s) :
    0 < l.toNat ∧ l.toNat ≤ Config.bufSize ∧ s.tbudget ≠ 0#32 := by
  obtain ⟨-, -, ho⟩ := h
  cases d <;> simp [transfer, operandsLegal, lenLegal, budgetLegal] at ho <;> grind

theorem engineFrame_eq (f : EngineFrame s t) :
    t = { s with
      estate := t.estate, ackpol := t.ackpol, pay := t.pay, buf := t.buf, xidx := t.xidx, cnt := t.cnt, trace := t.trace,
      flagsIn := t.flagsIn, rxIn := t.rxIn, nSmp := t.nSmp, nRx := t.nRx } := by
  cases s
  cases t
  cases f
  simp_all

/-- The index counts the bytes a read has received. -/
theorem XactOutcome.received (h : XactOutcome d a l sel s r es) :
    (rxBytes es).length = dataReceived d r.2.xidx.toNat := by
  cases h with
  | done hc hx he htx hrx => rw [hrx, hx]
  | notAddressed hc hx he htx hrx => rw [hrx, hx]; cases d <;> rfl
  | notAnswered hc hx he htx hrx => rw [hrx, hx]; cases d <;> rfl
  | brokenOff hc hx he htx hrx => exact hrx

/-- The bytes received among a part's events. -/
theorem Received.rxBytes {n : Nat} (h : Received n s t) (hes : Makes sel es s t) :
    Safety.rxBytes es = (List.range n).map (rxAhead s) := by
  obtain ⟨fs, hfs, hrx⟩ := h.trace
  obtain rfl : es = fs := List.append_cancel_left (hes.trace.symm.trans hfs)
  exact hrx

theorem ReadOutcome.fetched {n : Nat} (h : ReadOutcome sel n s r) :
    ∃ k, Fetched sel 0 k s r.2 ∧ r.2.ackpol = readPolicy r.1 k n s.ackpol := by
  cases h with
  | received hc hf hp => exact ⟨n, hf, by rw [hc]; exact hp⟩
  | stuck hc hq => exact ⟨0, hq.fetched sel 0, by rw [hc]; exact hq.ackpol⟩
  | early hc hq => exact ⟨0, hq.fetched sel 0, by obtain h | h | h := hc <;> rw [h] <;> exact hq.ackpol⟩
  | late k hk hc hf hp => exact ⟨k, hf, by rw [hc]; exact hp⟩

theorem transferStart_quiet (d : Dir) (a : BusAddr) (l : Byte) (s : State) :
    Quiet s.ackpol s (transferStart d a l s) := by
  have hcmd := emit_quiet (e := .cmd (encode (transfer d a l))) rfl s
  refine hcmd.trans (quiet_of_wire_eq ?_)
  cases d <;> rfl

theorem transferFrame_of_engine {c : Code}
    (f : EngineFrame (latchXact d a l s.tbudget .buf (transferStart d a l s)) t) (hpay : t.pay = s.pay) :
    { t with xcode := c } = transferFrame d a l s c t := by
  have heq := engineFrame_eq f
  rw [hpay] at heq
  conv_lhs => rw [heq]
  cases d <;> rfl

theorem xact_transfer (h : Accepts (transfer d a l) s) :
    ∃ es, Transfer d a l s (xact d a l s.tbudget .buf (transferStart d a l s)) es := by
  obtain ⟨hpos, hlen, hb⟩ := transfer_operands h
  obtain ⟨es, hes, hbound, ho⟩ := xact_run (sel := .buf) d a (transferStart d a l s) hpos hb
  have hq := transferStart_quiet d a l s
  have hcmd : Makes .buf [.cmd (encode (transfer d a l))] s (transferStart d a l s) := by
    cases d <;> exact event_makes rfl rfl rfl
  have hmakes := hcmd.trans hes
  refine ⟨es, hmakes, hbound, ho.from_array (hq.arrayByte .buf), ?_, ?_, ?_⟩
  · exact transferFrame_of_engine (xactPhases_engine d a l _ .buf _) (hmakes.pay nofun)
  · rintro rfl
    exact hq.trans (xact_write_quiet a l _ .buf _)
  · rintro rfl
    obtain ⟨k, hf, hp⟩ := (xact_read_outcome a s.tbudget (sel := .buf) (transferStart .read a l s) hpos hlen).fetched
    have hk := ho.received
    rw [hf.received.rxBytes hes, List.length_map, List.length_range] at hk
    change k = BitVec.toNat _ at hk
    rw [← hk]
    exact ⟨.between hq hf (.refl _), hq.ackpol ▸ hp⟩

/-- WRITE and READ of a HOST that waits (R154, R155). -/
theorem exec_transfer_eq (h : Accepts (transfer d a l) s) :
    exec (transfer d a l) s = .next (answer (xact d a l s.tbudget .buf (transferStart d a l s))) := by
  rw [exec_accepted h]
  cases d <;> rfl

theorem exec_transfer (h : Accepts (transfer d a l) s) :
    ∃ r es, exec (transfer d a l) s = .next (answer r) ∧ Transfer d a l s r es :=
  have ⟨es, ht⟩ := xact_transfer h
  ⟨_, es, exec_transfer_eq h, ht⟩

theorem Transfer.trace (h : Transfer d a l s r es) :
    (answer r).trace = s.trace ++ [.cmd (encode (transfer d a l))] ++ es ++ [.ret (answer r).result] := by
  have htrace := h.makes.trace
  rw [← List.append_assoc] at htrace
  rw [← htrace]
  rfl

/-- The bytes a READ received, as many as its index counts. -/
theorem Transfer.received (h : Transfer .read a l s r es) :
    rxBytes es = (List.range r.2.xidx.toNat).map (rxAhead s) := by
  obtain ⟨hf, -⟩ := h.fetched rfl
  have hrx := hf.received.rxBytes h.makes
  exact hrx

/-- The phase a transaction ended in: ESTATE, the code and the index (R47, R151). -/
theorem XactOutcome.finished (h : XactOutcome d a l sel s r es) (hpos : 0 < l.toNat) :
    (r.1 = .ok ∧ r.2.estate = .done ∧ r.2.xidx = l) ∨
      (r.1 ∈ [.busStuck, .startTimeout, .addressTimeout, .addressNack] ++ dataFailures d ∧ r.2.estate = .failed ∧
        r.2.xidx.toNat < l.toNat ∧ (r.1 ∉ dataFailures d → r.2.xidx = 0#8)) := by
  have hzero {x : Byte} (hx : x = 0#8) : x.toNat < l.toNat := by simpa [hx] using hpos
  cases h with
  | done hc hx he => exact .inl ⟨hc, he, hx⟩
  | notAddressed hc hx he => exact .inr ⟨by obtain h | h := hc <;> simp [h], he, hzero hx, fun _ => hx⟩
  | notAnswered hc hx he => exact .inr ⟨by obtain h | h := hc <;> simp [h], he, hzero hx, fun _ => hx⟩
  | brokenOff hc hx he => exact .inr ⟨List.mem_append_right _ hc, he, hx, fun hn => absurd hc hn⟩

theorem XactOutcome.xidx_le (h : XactOutcome d a l sel s r es) : r.2.xidx.toNat ≤ l.toNat := by
  cases h with
  | done hc hx => rw [hx]
  | notAddressed hc hx => simp [hx]
  | notAnswered hc hx => simp [hx]
  | brokenOff hc hx => exact hx.le

/-- What follows the last sample. -/
theorem XactOutcome.ends (h : XactOutcome d a l sel s r es) :
    ∃ v, Ends r.1 (if r.1 = .ok then afterByte d v ++ [.stop, .dly 2000] else exitEvents r.1) es := by
  have hfail (hne : r.1 ≠ .ok) (hends : Ends r.1 (exitEvents r.1) es) :
      ∃ v, Ends r.1 (if r.1 = .ok then afterByte d v ++ [.stop, .dly 2000] else exitEvents r.1) es :=
    ⟨0#8, by rwa [if_neg hne]⟩
  cases h with
  | done hc hx he htx hrx v hends => exact ⟨v, by rwa [hc, if_pos rfl]⟩
  | notAddressed hc hx he htx hrx hends => exact hfail (by obtain h | h := hc <;> rw [h] <;> decide) hends
  | notAnswered hc hx he htx hrx hends => exact hfail (by obtain h | h := hc <;> rw [h] <;> decide) hends
  | brokenOff hc hx he htx hrx hends => exact hfail (fun h => by cases d <;> simp [h, dataFailures] at hc) hends

end

/-! ### Completion and frame (R151, R154, R155, R211) -/

/-- Settles O24: a write transaction receives nothing and stores nothing, so that of what a transaction can change
it leaves BUF, the policy and ENV's bytes alone. -/
theorem writeCompletes : Obligations.WriteCompletes := by
  intro a l s h
  have hw : Accepts (transfer .write a l) s := h
  obtain ⟨hidle, -, -⟩ := h
  obtain ⟨r, es, hexec, ht⟩ := exec_transfer hw
  obtain ⟨hpos, -, -⟩ := transfer_operands hw
  have hq := ht.written rfl
  have hrx : (rxBytes es).length = 0 := ht.outcome.received
  have hrxIn : r.2.rxIn = s.rxIn := ht.makes.rxIn.trans (by rw [rxBytes_append]; simp [rxBytes, hrx])
  have hnRx : r.2.nRx = s.nRx := ht.makes.nRx.trans (by rw [rxBytes_append]; simp [rxBytes, hrx])
  have hop : opField (encode (transfer .write a l)) = 1#4 := opField_write a l
  refine ⟨answer r, es, hexec, ?_, hq.arrayByte .buf, rfl, ?_⟩
  · have htrace : (answer r).trace = s.trace ++ [.cmd (encode (.write a l))] ++ es ++ [.ret (answer r).result] :=
      ht.trace
    rw [← htrace, hidle]
    have hframe := ht.frame
    rw [transferFrame, hop, hq.ackpol, hq.buf, hrxIn, hnRx] at hframe
    conv_lhs => rw [answer, hframe]
    rfl
  · obtain hok | ⟨hc, he, hlt, hzero⟩ := ht.outcome.finished hpos
    · exact .inl hok
    · exact .inr ⟨hc, he, hlt, fun h1 h2 => hzero fun hd => (List.mem_pair.mp hd).elim h1 h2⟩

/-- Settles O27: a byte of BUF from IDX on is either beyond the bytes received or beyond BUF. -/
theorem readCompletes : Obligations.ReadCompletes := by
  intro a l s h
  have hr : Accepts (transfer .read a l) s := h
  obtain ⟨hidle, -, -⟩ := h
  obtain ⟨r, es, hexec, ht⟩ := exec_transfer hr
  obtain ⟨hpos, -, -⟩ := transfer_operands hr
  obtain ⟨hf, hp⟩ := ht.fetched rfl
  have hop : opField (encode (transfer .read a l)) = 2#4 := opField_read a l
  refine ⟨answer r, es, hexec, ?_, fun i (hi : r.2.xidx.toNat ≤ i) => ?_, rfl, ?_⟩
  · have htrace : (answer r).trace = s.trace ++ [.cmd (encode (.read a l))] ++ es ++ [.ret (answer r).result] :=
      ht.trace
    rw [← htrace, hidle]
    have hframe := ht.frame
    rw [transferFrame, hop] at hframe
    conv_lhs => rw [answer, hframe]
    rfl
  · by_cases hb : i < Config.bufSize
    · have hstored := hf.stored i hb
      rwa [if_neg (by omega)] at hstored
    · exact ht.makes.beyond i (Nat.le_of_not_lt hb)
  · obtain ⟨hc, he, hx⟩ | ⟨hc, he, hlt, hzero⟩ := ht.outcome.finished hpos
    · exact .inl ⟨hc, he, hx, hp.trans (by rw [hc]; rfl)⟩
    · have hne : r.1 ≠ .ok := fun h => by simp [h, dataFailures] at hc
      refine .inr ⟨hc, he, hlt, fun h => hzero fun hd => h (List.mem_singleton.mp hd), hp.trans ?_⟩
      obtain ⟨c, t⟩ := r
      cases c with
      | ok => exact absurd rfl hne
      | _ => rfl

/-! ### The bytes transmitted and received (R144 to R146, R150) -/

/-- Settles O25: a write transaction hands over the bytes of BUF as they stand when it starts. -/
theorem writeTransmitsAddressThenBuffer : Obligations.WriteTransmitsAddressThenBuffer := by
  intro a l s h
  obtain ⟨r, es, hexec, ht⟩ := exec_transfer (d := .write) h
  have hsent (n : Nat) : dataSent .write .buf s 0 n = (List.range n).map (bufByte s) := by
    simp only [dataSent, Nat.zero_add]
    rfl
  refine ⟨answer r, es, hexec, ht.trace, ?_⟩
  have ho := ht.outcome
  obtain ⟨c, t⟩ := r
  cases ho with
  | done hc hx he htx =>
    obtain rfl : c = .ok := hc
    rwa [hsent] at htx
  | notAddressed hc hx he htx => obtain rfl | rfl := hc <;> exact htx
  | notAnswered hc hx he htx => obtain rfl | rfl := hc <;> exact htx
  | brokenOff hc hx he htx =>
    rw [hsent] at htx
    obtain rfl | rfl := List.mem_pair.mp hc <;> exact htx

/-- Settles O28: the bytes received are as many as IDX counts, and each stands where the read stored it. -/
theorem readStoresReceivedBytesInOrder : Obligations.ReadStoresReceivedBytesInOrder := by
  intro a l s h
  have hr : Accepts (transfer .read a l) s := h
  obtain ⟨r, es, hexec, ht⟩ := exec_transfer hr
  obtain ⟨-, hlen, -⟩ := transfer_operands hr
  obtain ⟨hf, -⟩ := ht.fetched rfl
  have hle := ht.outcome.xidx_le
  refine ⟨answer r, es, hexec, ht.trace, ?_, ht.received, ?_⟩
  · refine ht.received.trans (List.map_congr_left fun k hk => ?_)
    have hk' : k < r.2.xidx.toNat := List.mem_range.mp hk
    have hstored := hf.stored k (hk'.trans_le (hle.trans hlen))
    rw [if_pos ⟨Nat.zero_le k, by omega⟩] at hstored
    exact hstored.symm
  · have ho := ht.outcome
    obtain ⟨c, t⟩ := r
    cases ho with
    | done hc hx he htx =>
      obtain rfl : c = .ok := hc
      exact htx
    | notAddressed hc hx he htx => obtain rfl | rfl := hc <;> exact htx
    | notAnswered hc hx he htx => obtain rfl | rfl := hc <;> exact htx
    | brokenOff hc hx he htx =>
      obtain rfl := List.mem_singleton.mp hc
      exact htx

/-! ### How the bus is left (R147 to R149) -/

/-- The byte a read receives last, when its events end with its reception and the stop phase (R155). -/
theorem last_received {fs : List Event} {f : Flags} {v : Byte} {n : Nat} {g : Nat → Byte} (hn : 0 < n)
    (h : rxBytes (fs ++ [.smp f] ++ [.rx v, .stop, .dly 2000]) = (List.range n).map g) : v = g (n - 1) := by
  obtain ⟨k, rfl⟩ : ∃ k, n = k + 1 := Nat.exists_eq_succ_of_ne_zero hn.ne'
  have hlast := congrArg List.getLast? h
  simpa [rxBytes_append, rxBytes, List.range_succ] using hlast

/-- Settles O30: what follows the transaction's last sample is its stop phase or its exit; a READ that succeeds has its
last byte before. -/
theorem exitsLeaveTheBusAsTheirCodeSays : Obligations.ExitsLeaveTheBusAsTheirCodeSays := by
  rintro i s ⟨a, l, rfl | rfl⟩ h
  · obtain ⟨r, es, hexec, ht⟩ := exec_transfer (d := .write) h
    obtain ⟨v, fs, f, rfl, hnack, hbusy⟩ := ht.outcome.ends
    refine ⟨answer r, fs, f, hexec, ht.trace.trans ?_, hnack, hbusy⟩
    obtain ⟨c, t⟩ := r
    simp only [← List.append_assoc]
    cases c <;> rfl
  · have hr : Accepts (transfer .read a l) s := h
    obtain ⟨r, es, hexec, ht⟩ := exec_transfer hr
    obtain ⟨hpos, -, -⟩ := transfer_operands hr
    have hrx := ht.received
    have hfinished := ht.outcome.finished hpos
    obtain ⟨v, fs, f, rfl, hnack, hbusy⟩ := ht.outcome.ends
    refine ⟨answer r, fs, f, hexec, ht.trace.trans ?_, hnack, hbusy⟩
    obtain ⟨c, t⟩ := r
    simp only [← List.append_assoc]
    cases c with
    | ok =>
      have hx : t.xidx = l := by
        obtain ⟨-, -, hx⟩ | ⟨hc, -⟩ := hfinished
        · exact hx
        · simp [dataFailures] at hc
      rw [last_received (by rw [hx]; exact hpos) hrx]
      rfl
    | _ => rfl

/-! ### Bounds (R150, R260) -/

/-- Settles O31: TRACE grows by the two brackets and the events of the transaction, each a sample or not. -/
theorem transactionEventsAreBounded : Obligations.TransactionEventsAreBounded := by
  intro i l s hi h
  obtain ⟨d, a, rfl⟩ : ∃ d a, i = transfer d a l := by
    obtain ⟨a, rfl | rfl⟩ := hi
    · exact ⟨.write, a, rfl⟩
    · exact ⟨.read, a, rfl⟩
  obtain ⟨r, es, hexec, ht⟩ := exec_transfer h
  obtain ⟨hsamples, hothers⟩ := ht.bounded
  have hn : (answer r).nSmp = s.nSmp + samples es :=
    ht.makes.nSmp.trans (by rw [samples_append]; simp [samples, isSample])
  refine ⟨answer r, hexec, by omega, by omega, ?_⟩
  rw [ht.trace]
  simp only [List.length_append, List.length_singleton, length_eq_samples_add_others es]
  omega

end Sys2Proof.Proofs
end

section
/-! ## Proofs: WRITE and READ with ENV ideal (R154, R155)

While ENV's next answers are ideal, every poll ends with its first sample, and each phase succeeds with the events its
rule gives (`Ideally`). -/

open Sys2Proof Sys2Proof.Machine Sys2Proof.Safety

namespace Sys2Proof.Proofs

/-- ENV's next `m` samples are ideal, `fs` stand after them; the next bytes received are `vs`. -/
structure Ideal (m : Nat) (fs : List Flags) (vs : List Byte) (s : State) : Prop where
  flags : s.flagsIn = List.replicate m idealFlags ++ fs
  bytes : s.rxIn = vs

/-- A part of a transaction from `s` succeeds with the events `es` and leaves the ideal answers `m`, `fs`, `vs`. -/
structure Ideally (sel : XSel) (es : List Event) (m : Nat) (fs : List Flags) (vs : List Byte) (s : State)
    (r : Code × State) : Prop where
  code  : r.1 = .ok
  makes : Makes sel es s r.2
  ideal : Ideal m fs vs r.2

section

variable {sel : XSel} {es es' : List Event} {m m' : Nat} {fs : List Flags} {vs vs' : List Byte} {s t : State}
  {r : Code × State} {b : Word}

theorem Ideal.nextFlags (h : Ideal (m + 1) fs vs s) : nextFlags s = idealFlags := by
  simp [Machine.nextFlags, h.flags, List.replicate_succ]

theorem Makes.ideal {n k : Nat} (h : Makes sel es s t) (hs : samples es = n) (hr : (rxBytes es).length = k)
    (hi : Ideal (m + n) fs vs s) : Ideal m fs (vs.drop k) t where
  flags := by rw [h.flagsIn, hs, hi.flags, List.drop_append_of_le_length (by simp)]; simp
  bytes := by rw [h.rxIn, hr, hi.bytes]

/-- Registers that ENV's answers do not depend on may be assigned before a part. -/
theorem Ideally.of_start (hst : answers t = answers s) (h : Ideally sel es m fs vs t r) : Ideally sel es m fs vs s r :=
  ⟨h.code, (makes_nothing hst).trans h.makes, h.ideal⟩

theorem Ideally.andThen {f : State → Code × State} (h : Ideally sel es m fs vs s r)
    (h' : Ideally sel es' m' fs vs' r.2 (f r.2)) : Ideally sel (es ++ es') m' fs vs' s (andThen r f) := by
  rw [andThen_of_ok h.code]
  exact ⟨h'.code, h.makes.trans h'.makes, h'.ideal⟩

/-- An ideal sample ends any poll, after the phase's first events. -/
theorem poll_ideal {pre : List Event} (c : PollCond) (watch : Bool) (hb : b ≠ 0#32) (hpre : Makes sel pre s t)
    (hs : samples pre = 0) (hr : rxBytes pre = []) (h : Ideal (m + 1) fs vs s) :
    ∃ u, poll c watch b t = (.ready, u) ∧ Ideally sel (pre ++ [.smp idealFlags]) m fs vs s (.ok, u) := by
  have ht : Ideal (m + 1) fs vs t := hpre.ideal hs (congrArg List.length hr) h
  have hready : decides c watch (flagsAhead t 0) = some .ready := by
    rw [flagsAhead_zero, ht.nextFlags]
    cases c <;> cases watch <;> rfl
  have hsample : Makes sel [.smp idealFlags] t (sampled 1 (BitVec.ofNat 32 (b.toNat - 1 + 1)) t) := by
    simpa [ht.nextFlags] using sampled_makes (sel := sel) 1 (BitVec.ofNat 32 (b.toNat - 1 + 1)) t
  exact ⟨_, poll_of_decided le_rfl (by bv_omega) (by omega) hready, rfl, hpre.trans hsample, hsample.ideal rfl rfl ht⟩

theorem waitBusFree_ideal (hb : b ≠ 0#32) (h : Ideal (m + 1) fs vs s) :
    Ideally sel [.smp idealFlags] m fs vs s (waitBusFree b s) := by
  have hpre : Makes sel [] s { s with estate := .waitFree } := makes_nothing rfl
  obtain ⟨u, hp, hu⟩ := poll_ideal .busFree false hb hpre rfl rfl h
  rwa [waitBusFree_of_ready hp]

theorem startPhase_ideal (d : Dir) (hb : b ≠ 0#32) (h : Ideal (m + 1) fs vs s) :
    Ideally sel (startEvents d ++ [.smp idealFlags]) m fs vs s (startPhase d b s) := by
  obtain ⟨u, hp, hu⟩ := poll_ideal .txReady false hb (startAck_makes d s) (by cases d <;> rfl) (by cases d <;> rfl) h
  rwa [startPhase, hp]

theorem addressPhase_ideal (a : BusAddr) (d : Dir) (hb : b ≠ 0#32) (h : Ideal (m + 1) fs vs s) :
    Ideally sel [.tx (addressByte a d), .smp idealFlags] m fs vs s (addressPhase a d b s) := by
  have hpre : Makes sel [.tx (addressByte a d)] s (luTxWrite (addressByte a d) { s with estate := .addr }) :=
    event_makes rfl rfl rfl
  obtain ⟨u, hp, hu⟩ := poll_ideal .txReady true hb hpre rfl rfl h
  rwa [addressPhase, hp]

/-! ### The data loop -/

theorem setXidx_ideal (n : Nat) (h : Ideally sel es m fs vs s r) :
    Ideally sel es m fs vs s (andThen r fun u => (.ok, setXidx n u)) := by
  rw [andThen_of_ok h.code]
  exact ⟨rfl, h.makes.of_answers_eq rfl, h.ideal.flags, h.ideal.bytes⟩

theorem dataByte_write_ideal (l i : Nat) (hb : b ≠ 0#32) (h : Ideal (m + 1) fs vs s) :
    Ideally sel [.tx (arrayByte sel s i), .smp idealFlags] m fs vs s (dataByte .write sel l i b s) := by
  have hpre : Makes sel [.tx (arrayByte sel s i)] s (luTxWrite (arrayByte sel s i) s) := event_makes rfl rfl rfl
  obtain ⟨u, hp, hu⟩ := poll_ideal .txReady true hb hpre rfl rfl h
  have hdata : Ideally sel [.tx (arrayByte sel s i), .smp idealFlags] m fs vs s (dataTx (arrayByte sel s i) b s) := by
    rwa [dataTx, hp]
  exact setXidx_ideal (i + 1) hdata

/-- The events of the bytes with index `i` up to `i + n - 1` of a write. -/
def writeEvents (sel : XSel) (s : State) (i n : Nat) : List Event :=
  ((List.range n).map fun k => [Event.tx (arrayByte sel s (i + k)), Event.smp idealFlags]).flatten

theorem dataLoop_write_ideal (l : Nat) {n i : Nat} (hb : b ≠ 0#32) (h : Ideal (n + m) fs vs s) :
    Ideally sel (writeEvents sel s i n) m fs vs s (dataLoop .write sel l b n i s) := by
  induction n generalizing i s with
  | zero => exact ⟨rfl, makes_nothing rfl, (Nat.zero_add m ▸ h : Ideal m fs vs s)⟩
  | succ n ih =>
    have hbyte := dataByte_write_ideal (sel := sel) l i hb (m := n + m) (by rwa [Nat.add_right_comm])
    have hrest := ih (i := i + 1) hbyte.ideal
    have hevents : writeEvents sel s i (n + 1) =
        [.tx (arrayByte sel s i), .smp idealFlags] ++
          writeEvents sel (dataByte .write sel l i b s).2 (i + 1) n := by
      simp [writeEvents, List.range_succ_eq_map, Function.comp_def, dataByte_write_array, Nat.add_assoc, Nat.add_comm 1]
    rw [hevents]
    exact hbyte.andThen hrest

theorem dataByte_read_ideal {l i : Nat} {v : Byte} (hb : b ≠ 0#32) (h : Ideal (m + 1) fs (v :: vs) s) :
    Ideally sel (ackEvents (decide (i + 1 = l)) ++ [.smp idealFlags] ++ [.rx v]) m fs vs s
      (dataByte .read sel l i b s) := by
  obtain ⟨u, hp, hu⟩ := poll_ideal .rxReady false hb (lastAck_makes (sel := sel) (decide (i + 1 = l)) s)
    (by cases decide (i + 1 = l) <;> rfl) (by cases decide (i + 1 = l) <;> rfl) h
  have hbytes : u.rxIn = v :: vs := hu.ideal.bytes
  have hv : nextRx u = v := by simp [nextRx, hbytes]
  have hread : Makes sel [.rx v] u (arrayStore sel i v (luRxRead u)) := by
    simpa [hv] using (luRxRead_makes u).trans (arrayStore_makes i v (luRxRead u))
  have hdata : Ideally sel (ackEvents (decide (i + 1 = l)) ++ [.smp idealFlags] ++ [.rx v]) m fs vs s
      (dataRx (decide (i + 1 = l)) sel i b s) := by
    rw [dataRx, hp]
    dsimp only
    rw [hv]
    exact ⟨rfl, hu.makes.trans hread, hread.ideal rfl rfl hu.ideal⟩
  exact setXidx_ideal (i + 1) hdata

/-- The events of a read of the bytes `bs` and then its last, `v`. -/
def readEvents (bs : List Byte) (v : Byte) : List Event :=
  (bs.map fun b => [Event.smp idealFlags, Event.rx b]).flatten ++ [.ack false, .smp idealFlags, .rx v]

theorem dataLoop_read_ideal {l i : Nat} {bs : List Byte} {v : Byte} (hb : b ≠ 0#32) (hl : i + (bs.length + 1) = l)
    (h : Ideal (bs.length + 1 + m) fs (bs ++ v :: vs) s) :
    Ideally sel (readEvents bs v) m fs vs s (dataLoop .read sel l b (bs.length + 1) i s) := by
  induction bs generalizing i s with
  | nil =>
    have hbyte := dataByte_read_ideal (sel := sel) (l := l) (i := i) hb (Nat.add_comm 1 m ▸ h)
    rw [decide_eq_true (by simpa using hl)] at hbyte
    exact hbyte.andThen ⟨rfl, makes_nothing rfl, hbyte.ideal⟩
  | cons w bs ih =>
    rw [List.length_cons] at h hl
    have hbyte := dataByte_read_ideal (sel := sel) (l := l) (i := i) (m := bs.length + 1 + m) (v := w)
      (vs := bs ++ v :: vs) hb (by rwa [Nat.add_right_comm])
    rw [decide_eq_false (by omega)] at hbyte
    exact hbyte.andThen (ih (by omega) hbyte.ideal)

/-! ### The whole transaction -/

/-- The events of a transaction before its data phase. -/
def openingEvents (a : BusAddr) (d : Dir) : List Event :=
  [.smp idealFlags] ++ (startEvents d ++ [.smp idealFlags]) ++ [.tx (addressByte a d), .smp idealFlags]

section Transaction

variable {d : Dir} {a : BusAddr} {l : Byte} {data : List Event}

/-- The data phase and the stop phase. -/
theorem dataPhases_ideal
    (h : Ideally sel data m fs vs { s with estate := .data }
      (dataLoop d sel l.toNat b l.toNat 0 { s with estate := .data })) :
    Ideally sel (data ++ [.stop, .dly 2000]) m fs vs s
      (andThen (dataLoop d sel l.toNat b l.toNat 0 { s with estate := .data }) fun t => (.ok, stopPhase t)) := by
  have hstop (t : State) (ht : Ideal m fs vs t) : Ideally sel [.stop, .dly 2000] m fs vs t (.ok, stopPhase t) :=
    ⟨rfl, stopPhase_makes t, (stopPhase_makes (sel := sel) t).ideal rfl rfl ht⟩
  refine Ideally.of_start (t := { s with estate := .data }) rfl ?_
  exact h.andThen (f := fun t => (.ok, stopPhase t)) (hstop _ h.ideal)

theorem xactPhases_ideal (hb : b ≠ 0#32) (h : Ideal (l.toNat + 3) fs vs s)
    (hdata : ∀ t, (∀ j, arrayByte sel t j = arrayByte sel s j) → Ideal l.toNat fs vs t →
      Ideally sel data 0 fs vs' t (dataLoop d sel l.toNat b l.toNat 0 t)) :
    Ideally sel (openingEvents a d ++ data ++ [.stop, .dly 2000]) 0 fs vs' s (xactPhases d a l b sel s) := by
  have hfree := waitBusFree_ideal (sel := sel) hb h
  have hstart := startPhase_ideal (sel := sel) d hb hfree.ideal
  have haddr := addressPhase_ideal (sel := sel) a d hb hstart.ideal
  have harray (j : Nat) := ((addressPhase_quiet a d b _).arrayByte sel j).trans
    (((startPhase_quiet d b _).arrayByte sel j).trans ((waitBusFree_quiet b s).arrayByte sel j))
  have hrest := dataPhases_ideal (hdata _ harray ⟨haddr.ideal.flags, haddr.ideal.bytes⟩)
  unfold xactPhases openingEvents
  rw [List.append_assoc, List.append_assoc, List.append_assoc]
  exact hfree.andThen (hstart.andThen (haddr.andThen hrest))

theorem xact_ideal (hb : b ≠ 0#32) (h : Ideal (l.toNat + 3) fs vs s)
    (hdata : ∀ t, (∀ j, arrayByte sel t j = arrayByte sel s j) → Ideal l.toNat fs vs t →
      Ideally sel data 0 fs vs' t (dataLoop d sel l.toNat b l.toNat 0 t)) :
    Ideally sel (openingEvents a d ++ data ++ [.stop, .dly 2000]) 0 fs vs' s (xact d a l b sel s) := by
  have hlatch (j : Nat) : arrayByte sel (latchXact d a l b sel s) j = arrayByte sel s j := by cases sel <;> rfl
  obtain ⟨hc, hmakes, hideal⟩ := xactPhases_ideal (sel := sel) (s := latchXact d a l b sel s) (a := a) hb
    ⟨h.flags, h.bytes⟩ fun t ht => hdata t fun j => (ht j).trans (hlatch j)
  have hstart : Makes sel [] s (latchXact d a l b sel s) := makes_nothing rfl
  exact ⟨hc, (hstart.trans hmakes).of_answers_eq rfl, hideal.flags, hideal.bytes⟩

/-- WRITE or READ with ENV ideal: what the data phase makes determines all of it. -/
theorem exec_transfer_ideal (h : Accepts (transfer d a l) s) (hs : Ideal (l.toNat + 3) fs vs s)
    (hdata : ∀ t, (∀ j, bufByte t j = bufByte s j) → Ideal l.toNat fs vs t →
      Ideally .buf data 0 fs vs' t (dataLoop d .buf l.toNat s.tbudget l.toNat 0 t)) :
    ∃ t, exec (transfer d a l) s = .next t ∧ t.result = ⟨.ok, .none, l⟩ ∧ t.flagsIn = fs ∧ t.rxIn = vs' ∧
      (d = .read → t.ackpol = false) ∧
      t.trace = s.trace ++ [.cmd (encode (transfer d a l))] ++ (openingEvents a d ++ data ++ [.stop, .dly 2000]) ++
        [.ret ⟨.ok, .none, l⟩] := by
  obtain ⟨hpos, -, hb⟩ := transfer_operands h
  obtain ⟨es, ht⟩ := xact_transfer h
  have hbuf : ∀ j, bufByte (transferStart d a l s) j = bufByte s j := (transferStart_quiet d a l s).arrayByte .buf
  have hstart : Ideal (l.toNat + 3) fs vs (transferStart d a l s) := by cases d <;> exact ⟨hs.flags, hs.bytes⟩
  have hxact := xact_ideal (sel := .buf) (a := a) hb hstart fun t ht => hdata t fun j => (ht j).trans (hbuf j)
  refine ⟨_, exec_transfer_eq h, ?_⟩
  generalize xact d a l s.tbudget .buf (transferStart d a l s) = r at ht hxact ⊢
  obtain ⟨hc, hmakes, hideal⟩ := hxact
  have hx : r.2.xidx = l := by
    obtain ⟨-, -, hx⟩ | ⟨hf, -⟩ := ht.outcome.finished hpos
    · exact hx
    · cases d <;> simp [hc, dataFailures] at hf
  have hes : es = openingEvents a d ++ data ++ [.stop, .dly 2000] := by
    have hcmd : (transferStart d a l s).trace = s.trace ++ [.cmd (encode (transfer d a l))] := by cases d <;> rfl
    have htrace := ht.makes.trace
    rw [hmakes.trace, hcmd, ← List.append_assoc s.trace _ es] at htrace
    exact (List.append_cancel_left htrace).symm
  have hresult : (answer r).result = ⟨.ok, .none, l⟩ := by
    rw [← hc, ← hx]
    rfl
  refine ⟨hresult, hideal.flags, hideal.bytes, fun hd => ?_, ?_⟩
  · exact (ht.fetched hd).2.trans (by rw [hc]; rfl)
  · rw [ht.trace, hresult, hes]

end Transaction

end

/-- Settles O26: the data phase hands over BUF as it stands when the command starts. -/
theorem writeUnderIdealEnv : Obligations.WriteUnderIdealEnv := by
  intro a l s fs h hflags
  have hw : Accepts (transfer .write a l) s := h
  obtain ⟨-, -, hb⟩ := transfer_operands hw
  obtain ⟨t, hexec, hresult, hfs, -, -, htrace⟩ := exec_transfer_ideal (vs := s.rxIn) (vs' := s.rxIn)
    (data := writeEvents .buf s 0 l.toNat) hw ⟨hflags, rfl⟩ fun t ht hi => by
      have hsame : writeEvents .buf t 0 l.toNat = writeEvents .buf s 0 l.toNat := by
        simp [writeEvents, arrayByte, ht]
      exact hsame ▸ dataLoop_write_ideal l.toNat hb hi
  refine ⟨t, hexec, hresult, hfs, htrace.trans ?_⟩
  simp [openingEvents, startEvents, writeEvents, transfer, arrayByte]

/-- Settles O29: the data phase receives ENV's bytes and switches the policy before the last one. -/
theorem readUnderIdealEnv : Obligations.ReadUnderIdealEnv := by
  intro a l s fs bs last rs h hflags hbytes hlen
  have hr : Accepts (transfer .read a l) s := h
  obtain ⟨-, -, hb⟩ := transfer_operands hr
  have hvs : s.rxIn = bs ++ last :: rs := by simpa using hbytes
  obtain ⟨t, hexec, hresult, hfs, hrs, hack, htrace⟩ := exec_transfer_ideal (vs' := rs) (data := readEvents bs last) hr
    ⟨hflags, hvs⟩ fun t _ hi => by
      rw [← hlen] at hi ⊢
      exact dataLoop_read_ideal hb (Nat.zero_add _) hi
  refine ⟨t, hexec, hresult, hfs, hrs, hack rfl, htrace.trans ?_⟩
  simp [openingEvents, startEvents, readEvents, transfer]

end Sys2Proof.Proofs
end

section
/-! ## Proofs: what a transaction does on the bus and leaves alone (R141 to R150)

`OnBus`: a part of a transaction makes bus events only, so none on the pins and no delay but the 2 ms ones, and stores
nothing in BUF unless BUF is its array. With the frame of the engine this gives every register a transaction over
another array can change (`xact_frame`). -/

open Sys2Proof Sys2Proof.Machine Sys2Proof.Safety

namespace Sys2Proof.Proofs

/-- The events a transaction can make: none on the pins, and of the delays only those of 2 ms. -/
def isBusEvent : Event → Bool
  | .smp _ | .start | .stop | .tx _ | .rx _ | .ack _ | .nackClr => true
  | .dly us => decide (us = 2000)
  | _ => false

/-- From `s` to `t` a transaction over the array `sel` makes bus events only, and leaves BUF alone if it is not `sel`. -/
structure OnBus (sel : XSel) (s t : State) : Prop where
  trace : ∃ es, t.trace = s.trace ++ es ∧ ∀ e ∈ es, isBusEvent e = true
  buf   : sel ≠ .buf → t.buf = s.buf

variable {sel : XSel}

theorem OnBus.trans {s t u : State} (h : OnBus sel s t) (h' : OnBus sel t u) : OnBus sel s u := by
  obtain ⟨⟨es, ht, hes⟩, hbuf⟩ := h
  obtain ⟨⟨fs, hu, hfs⟩, hbuf'⟩ := h'
  refine ⟨⟨es ++ fs, by rw [hu, ht, List.append_assoc], fun e he => ?_⟩, fun hs => (hbuf' hs).trans (hbuf hs)⟩
  exact (List.mem_append.mp he).elim (hes e) (hfs e)

/-- Assignments to registers other than BUF. -/
theorem onBus_of_eq {s t : State} (htrace : t.trace = s.trace) (hbuf : t.buf = s.buf) : OnBus sel s t :=
  ⟨⟨[], by simp [htrace], nofun⟩, fun _ => hbuf⟩

theorem OnBus.refl (s : State) : OnBus sel s s := onBus_of_eq rfl rfl

/-- One bus event, and assignments to registers other than BUF. -/
theorem onBus_event {e : Event} (he : isBusEvent e = true) {s t : State} (htrace : t.trace = s.trace ++ [e])
    (hbuf : t.buf = s.buf) : OnBus sel s t :=
  ⟨⟨[e], htrace, by simpa using he⟩, fun _ => hbuf⟩

theorem luSample_onBus (s : State) : OnBus sel s (luSample s) := onBus_event (e := .smp (nextFlags s)) rfl rfl rfl

theorem pollLoop_onBus (c : PollCond) (watch : Bool) (n : Nat) (s : State) :
    OnBus sel s (pollLoop c watch n s).2 := by
  induction n generalizing s with
  | zero => exact .refl s
  | succ n ih =>
    unfold pollLoop
    split
    · exact luSample_onBus s
    · have hcount : OnBus sel (luSample s) (countDown (luSample s)) := onBus_of_eq rfl rfl
      exact ((luSample_onBus s).trans hcount).trans (ih _)

/-- A poll after the first events of its phase. -/
theorem OnBus.poll {s t : State} (h : OnBus sel s t) (c : PollCond) (watch : Bool) (b : Word) :
    OnBus sel s (poll c watch b t).2 :=
  have hload : OnBus sel t { t with cnt := b } := onBus_of_eq rfl rfl
  (h.trans hload).trans (pollLoop_onBus c watch b.toNat _)

/-- The plain exit (R149). -/
theorem OnBus.failPlain {s t : State} (h : OnBus sel s t) (c : Code) : OnBus sel s (failPlain c t).2 :=
  h.trans (onBus_of_eq rfl rfl)

/-- The NACK exit (R148). -/
theorem OnBus.failNack {s t : State} (h : OnBus sel s t) (c : Code) : OnBus sel s (failNack c t).2 :=
  have hclear : OnBus sel t (luClearNack t) := onBus_event (e := .nackClr) rfl rfl rfl
  have hstop : OnBus sel (luClearNack t) (luStop (luClearNack t)) := onBus_event (e := .stop) rfl rfl rfl
  ((h.trans hclear).trans hstop).trans (onBus_event (e := .dly Config.tNackSettle) rfl rfl rfl)

theorem OnBus.andThen {s : State} {r : Code × State} {k : State → Code × State} (h : OnBus sel s r.2)
    (hk : ∀ t, OnBus sel t (k t).2) : OnBus sel s (andThen r k).2 := by
  by_cases hr : r.1 = .ok
  · rw [andThen_of_ok hr]
    exact h.trans (hk r.2)
  · rwa [andThen_of_ne hr]

theorem waitBusFree_onBus (b : Word) (s : State) : OnBus sel s (waitBusFree b s).2 := by
  have hstart : OnBus sel s { s with estate := .waitFree } := onBus_of_eq rfl rfl
  have hpoll := hstart.poll .busFree false b
  have hstop (t : State) : OnBus sel t (luStop t) := onBus_event (e := .stop) rfl rfl rfl
  have hdelay (t : State) : OnBus sel t (dly Config.tBusfreeRetry t) := onBus_event (e := .dly 2000) rfl rfl rfl
  have hrecheck (t : State) : OnBus sel t (recheck t) := ((hstop t).trans (hdelay _)).trans (luSample_onBus _)
  unfold waitBusFree
  dsimp only
  split
  · split
    · exact (hpoll.trans (hrecheck _)).failPlain .busStuck
    · exact hpoll.trans (hrecheck _)
  · exact hpoll

theorem startPhase_onBus (d : Dir) (b : Word) (s : State) : OnBus sel s (startPhase d b s).2 := by
  have hack : OnBus sel s (startAck d { s with estate := .start }) := by
    cases d with
    | write => exact onBus_of_eq rfl rfl
    | read => exact onBus_event (e := .ack true) rfl rfl rfl
  have hpoll := (hack.trans (onBus_event (t := luStart _) (e := .start) rfl rfl rfl)).poll .txReady false b
  unfold startPhase
  dsimp only
  split
  · exact hpoll.failPlain .startTimeout
  · exact hpoll

theorem addressPhase_onBus (a : BusAddr) (d : Dir) (b : Word) (s : State) :
    OnBus sel s (addressPhase a d b s).2 := by
  have htx : OnBus sel s (luTxWrite (addressByte a d) { s with estate := .addr }) :=
    onBus_event (e := .tx (addressByte a d)) rfl rfl rfl
  have hpoll := htx.poll .txReady true b
  unfold addressPhase
  dsimp only
  split
  · exact hpoll
  · exact hpoll.failNack .addressNack
  · exact hpoll.failPlain .addressTimeout

theorem dataTx_onBus (v : Byte) (b : Word) (s : State) : OnBus sel s (dataTx v b s).2 := by
  have htx : OnBus sel s (luTxWrite v s) := onBus_event (e := .tx v) rfl rfl rfl
  have hpoll := htx.poll .txReady true b
  unfold dataTx
  dsimp only
  split
  · exact hpoll
  · exact hpoll.failNack .dataNack
  · exact hpoll.failPlain .dataTimeout

/-- A store lands in the array it names. -/
theorem arrayStore_onBus (i : Nat) (v : Byte) (s : State) : OnBus sel s (arrayStore sel i v s) := by
  refine ⟨⟨[], by rw [arrayStore_frame]; simp, nofun⟩, fun hs => ?_⟩
  cases sel with
  | buf => exact absurd rfl hs
  | pay | const b => rfl

theorem dataRx_onBus (last : Bool) (i : Nat) (b : Word) (s : State) : OnBus sel s (dataRx last sel i b s).2 := by
  have hack : OnBus sel s (lastAck last s) := by
    cases last
    · exact .refl s
    · exact onBus_event (e := .ack false) rfl rfl rfl
  have hpoll := hack.poll .rxReady false b
  have hread (t : State) : OnBus sel t (luRxRead t) := onBus_event (e := .rx (nextRx t)) rfl rfl rfl
  unfold dataRx
  dsimp only
  split
  · exact hpoll.failPlain .dataTimeout
  · exact (hpoll.trans (hread _)).trans (arrayStore_onBus i _ _)

theorem dataByte_onBus (d : Dir) (l i : Nat) (b : Word) (s : State) : OnBus sel s (dataByte d sel l i b s).2 := by
  rw [dataByte_eq]
  refine OnBus.andThen ?_ fun t => onBus_of_eq rfl rfl
  cases d with
  | write => exact dataTx_onBus _ b s
  | read => exact dataRx_onBus _ i b s

theorem dataLoop_onBus (d : Dir) (l : Nat) (b : Word) (n i : Nat) (s : State) :
    OnBus sel s (dataLoop d sel l b n i s).2 := by
  induction n generalizing i s with
  | zero => exact .refl s
  | succ n ih => exact (dataByte_onBus d l i b s).andThen (ih (i + 1))

theorem stopPhase_onBus (s : State) : OnBus sel s (stopPhase s) :=
  have hstop : OnBus sel s (luStop { s with estate := .stop }) := onBus_event (e := .stop) rfl rfl rfl
  hstop.trans (onBus_event (e := .dly Config.tStopSettle) rfl rfl rfl)

theorem xact_onBus (d : Dir) (a : BusAddr) (l : Byte) (b : Word) (s : State) : OnBus sel s (xact d a l b sel s).2 := by
  have hlatch : OnBus sel s (latchXact d a l b sel s) := onBus_of_eq rfl rfl
  have hphases (v : State) : OnBus sel v (xactPhases d a l b sel v).2 := by
    refine (waitBusFree_onBus b v).andThen fun s1 => ?_
    refine (startPhase_onBus d b s1).andThen fun s2 => ?_
    refine (addressPhase_onBus a d b s2).andThen fun s3 => ?_
    have hdata : OnBus sel s3 { s3 with estate := .data } := onBus_of_eq rfl rfl
    exact (hdata.trans (dataLoop_onBus d l.toNat b l.toNat 0 _)).andThen stopPhase_onBus
  exact (hlatch.trans (hphases _)).trans (onBus_of_eq rfl rfl)

/-- What a transaction from `s` over an array other than BUF, whose latches it loads first, can have changed when it
leaves `t`. -/
def xactFrom (d : Dir) (a : BusAddr) (l : Byte) (b : Word) (sel : XSel) (s t : State) : State :=
  { latchXact d a l b sel s with
    estate := t.estate, ackpol := t.ackpol, pay := t.pay, xidx := t.xidx, cnt := t.cnt, xcode := t.xcode,
    trace := t.trace, flagsIn := t.flagsIn, rxIn := t.rxIn, nSmp := t.nSmp, nRx := t.nRx }

theorem xact_frame (d : Dir) (a : BusAddr) (l : Byte) (b : Word) (hsel : sel ≠ .buf) (s : State) :
    (xact d a l b sel s).2 = xactFrom d a l b sel s (xact d a l b sel s).2 := by
  have hbuf : (xactPhases d a l b sel (latchXact d a l b sel s)).2.buf = s.buf := (xact_onBus d a l b s).buf hsel
  have heq := engineFrame_eq (xactPhases_engine d a l b sel (latchXact d a l b sel s))
  rw [hbuf] at heq
  exact congrArg (fun t => { t with xcode := (xact d a l b sel s).1 }) heq

/-! ### Counting events -/

theorem occurs_of_onBus {e : Event} (he : isBusEvent e = false) {es : List Event}
    (h : ∀ e ∈ es, isBusEvent e = true) : occurs e es = 0 := by
  refine List.countP_eq_zero.mpr fun x hx hxe => ?_
  have hbus := h x hx
  rw [of_decide_eq_true hxe, he] at hbus
  cases hbus

theorem pinEvents_of_onBus {es : List Event} (h : ∀ e ∈ es, isBusEvent e = true) : pinEvents es = 0 := by
  refine List.countP_eq_zero.mpr fun x hx hpin => ?_
  have hbus := h x hx
  cases x <;> simp [isPinEvent, isBusEvent] at hpin hbus

theorem pinEvents_append (xs ys : List Event) : pinEvents (xs ++ ys) = pinEvents xs + pinEvents ys :=
  List.countP_append

end Sys2Proof.Proofs
end

section
/-! ## Proofs: every outcome of MEASURE (R170 to R174, R182 to R184)

MEASURE is a write transaction over a constant and, after the wait, a read transaction over PAY. `MeasureRun` lists how
the two can end and what follows; each statement then reads off what it needs. -/

open Sys2Proof Sys2Proof.Machine Sys2Proof.Safety

namespace Sys2Proof.Proofs

/-! ### The two transactions (R172, R174) -/

/-- A transaction of MEASURE from `s` over the array `sel` returns `r`; `es` are its events. -/
structure Leg (d : Dir) (l : Byte) (b : Word) (sel : XSel) (s : State) (r : Code × State) (es : List Event) : Prop where
  trace   : r.2.trace = s.trace ++ es
  bus     : ∀ e ∈ es, isBusEvent e = true
  outcome : XactOutcome d Config.sensorAddr l sel s r es
  frame   : r.2 = xactFrom d Config.sensorAddr l b sel s r.2

theorem xact_leg (d : Dir) {l : Byte} {b : Word} {sel : XSel} (hsel : sel ≠ .buf) (s : State) (hl : 0 < l.toNat)
    (hb : b ≠ 0#32) : ∃ es, Leg d l b sel s (xact d Config.sensorAddr l b sel s) es := by
  obtain ⟨es, hes, -, ho⟩ := xact_run (sel := sel) d Config.sensorAddr s hl hb
  obtain ⟨⟨fs, hfs, hbus⟩, -⟩ := xact_onBus (sel := sel) d Config.sensorAddr l b s
  obtain rfl : es = fs := List.append_cancel_left (hes.trace.symm.trans hfs)
  exact ⟨es, hes.trace, hbus, ho, xact_frame d Config.sensorAddr l b hsel s⟩

abbrev TriggerLeg (s : State) : Code × State → List Event → Prop :=
  Leg .write 1#8 s.opShort (.const Config.triggerByte) s

abbrev ReadLeg (s : State) : Code × State → List Event → Prop :=
  Leg .read Config.payloadLen s.opLong .pay s

/-- The wait for the conversion (R173). -/
def conversion (s : State) : State := { dly Config.tConv { s with dstate := .await } with dstate := .reading }

/-- The recovery after a failed read (R174). -/
def recovery (s : State) : State := dly Config.tRecoverSettle (runForceClear s)

/-- Every outcome of MEASURE from `s`, just accepted, by its two transactions; `evs` are its events. -/
inductive MeasureRun (s : State) (out : Result × State) : List Event → Prop
  | triggerFailed (x : Code × State) (es : List Event) (hx : TriggerLeg (beginMeasure s) x es) (hc : x.1 ≠ .ok)
      (ho : out = failMeasure x.1 .trigger x.2) : MeasureRun s out es
  | readFailed (x y : Code × State) (es fs : List Event) (hx : TriggerLeg (beginMeasure s) x es) (hok : x.1 = .ok)
      (hy : ReadLeg (conversion x.2) y fs) (hc : y.1 ≠ .ok) (ho : out = failMeasure y.1 .read (recovery y.2)) :
      MeasureRun s out (es ++ [.dly 50000] ++ fs ++ (forceClearEvents ++ [.dly 50000]))
  | received (x y : Code × State) (es fs : List Event) (hx : TriggerLeg (beginMeasure s) x es) (hok : x.1 = .ok)
      (hy : ReadLeg (conversion x.2) y fs) (hok' : y.1 = .ok) (ho : out = decodePayload y.2) :
      MeasureRun s out (es ++ [.dly 50000] ++ fs)

theorem runMeasure_run {s : State} (hshort : s.opShort ≠ 0#32) (hlong : s.opLong ≠ 0#32) :
    ∃ evs, MeasureRun s (runMeasure s) evs := by
  have hopLong : (conversion (triggerXact (beginMeasure s)).2).opLong ≠ 0#32 :=
    (xact_opLong _ _ _ _ _ (beginMeasure s)).trans_ne hlong
  obtain ⟨es, hx⟩ := xact_leg .write (l := 1#8) (sel := .const Config.triggerByte) nofun (beginMeasure s) (by decide)
    hshort
  change TriggerLeg (beginMeasure s) (triggerXact (beginMeasure s)) es at hx
  obtain ⟨fs, hy⟩ := xact_leg .read (l := Config.payloadLen) (sel := .pay) nofun
    (conversion (triggerXact (beginMeasure s)).2) (by decide) hopLong
  by_cases hok : (triggerXact (beginMeasure s)).1 = .ok
  · rw [runMeasure_of_ok hok]
    by_cases hok' : (readXact (conversion (triggerXact (beginMeasure s)).2)).1 = .ok
    · exact ⟨_, .received _ _ es fs hx hok hy hok' (readStage_of_ok hok')⟩
    · exact ⟨_, .readFailed _ _ es fs hx hok hy hok' (readStage_of_ne hok')⟩
  · exact ⟨es, .triggerFailed _ es hx hok (runMeasure_of_ne hok)⟩

theorem decodePayload_trace (s : State) : (decodePayload s).2.trace = s.trace := by
  obtain ⟨-, -, h⟩ | ⟨-, -, h⟩ := decodePayload_cases s <;> rw [h]

theorem recovery_eq (s : State) :
    recovery s =
      { s with
        desync := true, pinOvr := true, sclO := true, sdaO := true, rstate := .idle, pulse := 0#4,
        trace := s.trace ++ (forceClearEvents ++ [.dly 50000]) } := by
  rw [recovery, runForceClear_eq]
  simp [dly, emit, Config.tRecoverSettle]

theorem MeasureRun.trace {s : State} {out : Result × State} {evs : List Event} (h : MeasureRun s out evs) :
    out.2.trace = s.trace ++ evs := by
  have hwait (x : Code × State) : (conversion x.2).trace = x.2.trace ++ [.dly 50000] := rfl
  have hbegin : (beginMeasure s).trace = s.trace := rfl
  cases h with
  | triggerFailed x es hx hc ho =>
    subst ho
    exact hx.trace
  | readFailed x y es fs hx hok hy hc ho =>
    subst ho
    rw [failMeasure, recovery_eq]
    simp [hy.trace, hwait, hx.trace, hbegin]
  | received x y es fs hx hok hy hok' ho =>
    subst ho
    simp [decodePayload_trace, hy.trace, hwait, hx.trace, hbegin]

/-- An accepted MEASURE, with a name for its outcome and its events. -/
theorem exec_measure_run {s : State} (h : Accepts .measure s) :
    ∃ out evs, exec .measure s = .next (complete out.1 out.2) ∧ MeasureRun (measuring s) out evs ∧
      (complete out.1 out.2).trace = s.trace ++ [.cmd 0x40000000#32] ++ evs ++ [.ret out.1] := by
  have hb : s.tbShort ≠ 0#32 ∧ s.tbLong ≠ 0#32 := by simpa [operandsLegal, budgetLegal] using h.2.2
  obtain ⟨evs, hrun⟩ := runMeasure_run (s := measuring s) hb.1 hb.2
  exact ⟨_, evs, exec_measure h, hrun, congrArg (· ++ [Event.ret _]) hrun.trace⟩

/-! ### Pairs and recovery (R183) -/

section

variable {d : Dir} {l : Byte} {b : Word} {sel : XSel} {s : State} {r : Code × State} {es : List Event}

theorem Leg.rdValid (h : Leg d l b sel s r es) : r.2.rdValid = s.rdValid := by
  rw [h.frame]
  rfl

theorem Leg.estate_of_ok (h : Leg d l b sel s r es) (hl : 0 < l.toNat) (hok : r.1 = .ok) : r.2.estate = .done := by
  obtain ⟨-, he, -⟩ | ⟨hc, -⟩ := h.outcome.finished hl
  · exact he
  · cases d <;> simp [hok, dataFailures] at hc

theorem Leg.failure (h : Leg d l b sel s r es) (hl : 0 < l.toNat) (hne : r.1 ≠ .ok) :
    r.1 ∈ [.busStuck, .startTimeout, .addressTimeout, .addressNack] ++ dataFailures d ∧ r.2.estate = .failed := by
  obtain ⟨hok, -⟩ | ⟨hc, he, -⟩ := h.outcome.finished hl
  · exact absurd hok hne
  · exact ⟨hc, he⟩

theorem Leg.pinEvents (h : Leg d l b sel s r es) : pinEvents es = 0 := pinEvents_of_onBus h.bus

theorem Leg.occurs (h : Leg d l b sel s r es) {e : Event} (he : isBusEvent e = false) : occurs e es = 0 :=
  occurs_of_onBus he h.bus

end

/-- MEASURE with a budget of 0 (R170). -/
theorem exec_measure_refused {s : State} (hb : s.busy = false) (h : s.tbShort = 0#32 ∨ s.tbLong = 0#32) :
    exec .measure s = .next (refuseWord (takeWord (encode .measure) s)) := by
  have ho : operandsLegal .measure s = false := by obtain h | h := h <;> simp [operandsLegal, budgetLegal, h]
  rw [exec_eq_command, command_illegal _ _ _ s hb ho]

/-- The decode ends the cycle, with the reading or without (R171, R175). -/
theorem decodePayload_ends (s : State) (hv : s.rdValid = false) :
    ((decodePayload s).1 = okResult ∧ (decodePayload s).2.rdValid = true ∧ (decodePayload s).2.dstate = .decoded) ∨
    ((decodePayload s).1 = ⟨.notReady, .decode, 0#8⟩ ∧ (decodePayload s).2.rdValid = false ∧
      (decodePayload s).2.dstate = .failed ∧ payloadStatus (decodePayload s).2.pay = .notReady) := by
  obtain ⟨hst, hr, h⟩ | ⟨-, hr, h⟩ := decodePayload_cases s <;> rw [hr, h]
  · exact .inr ⟨rfl, hv, rfl, hst⟩
  · exact .inl ⟨rfl, rfl, rfl⟩

theorem decodePayload_estate (s : State) : (decodePayload s).2.estate = s.estate := by
  obtain ⟨-, -, h⟩ | ⟨-, -, h⟩ := decodePayload_cases s <;> rw [h]

/-- The recovery's events: the pins are taken once, and there are 19 events on the pins (R131). -/
theorem recoveryEvents_pins :
    occurs (.pinDrv true true) (forceClearEvents ++ [.dly 50000]) = 1 ∧
      pinEvents (forceClearEvents ++ [.dly 50000]) = 19 := by decide

/-- Settles O33: the codes of the two transactions are those of R151, and only the recovery makes events on the pins. -/
theorem measureOutcomesAreComplete : Obligations.MeasureOutcomesAreComplete := by
  refine ⟨fun s hs => ?_, fun s hb h =>
    ⟨_, exec_measure_refused hb h, rfl, rfl, rfl, rfl, rfl, rfl, rfl, rfl, rfl, rfl⟩⟩
  obtain ⟨out, evs, hexec, hrun, htrace⟩ := exec_measure_run hs
  have hwait : occurs (.pinDrv true true) [.dly 50000] = 0 ∧ pinEvents [.dly 50000] = 0 := by decide
  cases hrun with
  | triggerFailed x _ hx hc ho =>
    subst ho
    obtain ⟨hcode, he⟩ := hx.failure (by decide) hc
    exact ⟨_, evs, hexec, rfl, rfl, rfl, htrace, hx.occurs rfl, hx.pinEvents,
      .inr (.inl ⟨hcode, rfl, hx.rdValid, rfl, he⟩)⟩
  | readFailed x y es fs hx hok hy hc ho =>
    subst ho
    obtain ⟨hcode, he⟩ := hy.failure (by decide) hc
    obtain ⟨hdrv, hpins⟩ := recoveryEvents_pins
    rw [recovery_eq] at hexec htrace
    refine ⟨_, _, hexec, rfl, rfl, rfl, htrace, ?_, ?_, .inr (.inr (.inl ⟨hcode, rfl, ?_, rfl, he⟩))⟩
    · rw [occurs_append, hdrv, occurs_append, occurs_append, hx.occurs rfl, hy.occurs rfl, hwait.1]
      rfl
    · rw [pinEvents_append, hpins, pinEvents_append, pinEvents_append, hx.pinEvents, hy.pinEvents, hwait.2]
      rfl
    · exact hy.rdValid.trans hx.rdValid
  | received x y es fs hx hok hy hok' ho =>
    subst ho
    have he := (decodePayload_estate y.2).trans (hy.estate_of_ok (by decide) hok')
    have hdrv : occurs (.pinDrv true true) (es ++ [.dly 50000] ++ fs) = 0 := by
      rw [occurs_append, occurs_append, hx.occurs rfl, hy.occurs rfl, hwait.1]
    have hpins : pinEvents (es ++ [.dly 50000] ++ fs) = 0 := by
      rw [pinEvents_append, pinEvents_append, hx.pinEvents, hy.pinEvents, hwait.2]
    obtain ⟨hr, hv, hd⟩ | ⟨hr, hv, hd, hst⟩ := decodePayload_ends y.2 (hy.rdValid.trans hx.rdValid) <;>
      rw [hr] at hexec htrace
    · exact ⟨_, _, hexec, rfl, rfl, rfl, htrace, hdrv, hpins, .inl ⟨rfl, rfl, hv, hd, he⟩⟩
    · exact ⟨_, _, hexec, rfl, rfl, rfl, htrace, hdrv, hpins, .inr (.inr (.inr ⟨rfl, rfl, hv, hd, he, hst⟩))⟩

/-! ### Frame (R170) -/

/-- The reading registers but RD_VALID (R33 to R37). -/
def reading (s : State) : StatusCode × BitVec 14 × BitVec 14 × Word × Word :=
  (s.statusCode, s.humRaw, s.tempRaw, s.humPct, s.tempC)

/-- The pins and the recovery controller (R41, R49, R55, R56). -/
def pins (s : State) : Bool × Bool × Bool × Bool × RState × BitVec 4 :=
  (s.desync, s.pinOvr, s.sclO, s.sdaO, s.rstate, s.pulse)

/-- What MEASURE from `s`, just accepted, can have changed when it leaves `t`: the registers named (R170). -/
def measureFrom (s t : State) : State :=
  { s with
    estate := t.estate, dstate := t.dstate, ackpol := t.ackpol, desync := t.desync, pinOvr := t.pinOvr, sclO := t.sclO,
    sdaO := t.sdaO, rstate := t.rstate, pulse := t.pulse, rdValid := t.rdValid, statusCode := t.statusCode,
    humRaw := t.humRaw, tempRaw := t.tempRaw, humPct := t.humPct, tempC := t.tempC, pay := t.pay,
    payValid := t.payValid, xdir := t.xdir, xaddr := t.xaddr, xlen := t.xlen, xb := t.xb, xsel := t.xsel,
    xidx := t.xidx, cnt := t.cnt, xcode := t.xcode, trace := t.trace, flagsIn := t.flagsIn, nSmp := t.nSmp,
    rxIn := t.rxIn, nRx := t.nRx }

/-- From `s` to `t` a part of MEASURE keeps what the whole of it keeps. -/
def MeasureKeeps (s t : State) : Prop := t = measureFrom s t

theorem MeasureKeeps.trans {s t u : State} (h : MeasureKeeps s t) (h' : MeasureKeeps t u) : MeasureKeeps s u := by
  unfold MeasureKeeps at *
  conv_lhs => rw [h', h]
  rfl

section

variable {d : Dir} {l : Byte} {b : Word} {sel : XSel} {s : State} {r : Code × State} {es : List Event}

theorem Leg.reading_eq (h : Leg d l b sel s r es) : reading r.2 = reading s := by
  rw [h.frame]
  rfl

theorem Leg.pins_eq (h : Leg d l b sel s r es) : pins r.2 = pins s := by
  rw [h.frame]
  rfl

theorem Leg.keeps (h : Leg d l b sel s r es) : MeasureKeeps s r.2 := by
  rw [h.frame]
  rfl

theorem Leg.xaddr (h : Leg d l b sel s r es) : r.2.xaddr = Config.sensorAddr := by
  rw [h.frame]
  rfl

end

theorem recovery_keeps (s : State) : MeasureKeeps s (recovery s) := by
  rw [recovery_eq]
  rfl

theorem decodePayload_keeps (s : State) :
    MeasureKeeps s (decodePayload s).2 ∧ (decodePayload s).2.xaddr = s.xaddr := by
  obtain ⟨-, -, h⟩ | ⟨-, -, h⟩ := decodePayload_cases s <;> rw [h] <;> exact ⟨rfl, rfl⟩

theorem MeasureRun.keeps {s : State} {out : Result × State} {evs : List Event} (h : MeasureRun s out evs) :
    MeasureKeeps s out.2 ∧ out.2.xaddr = Config.sensorAddr := by
  have hbegin : MeasureKeeps s (beginMeasure s) := rfl
  have hwait (t : State) : MeasureKeeps t (conversion t) := rfl
  have hfail (c : Code) (st : Stage) (t : State) : MeasureKeeps t (failMeasure c st t).2 := rfl
  cases h with
  | triggerFailed x _ hx hc ho =>
    subst ho
    exact ⟨(hbegin.trans hx.keeps).trans (hfail _ _ _), hx.xaddr⟩
  | readFailed x y es fs hx hok hy hc ho =>
    subst ho
    have hread := ((hbegin.trans hx.keeps).trans (hwait _)).trans hy.keeps
    refine ⟨(hread.trans (recovery_keeps _)).trans (hfail _ _ _), ?_⟩
    rw [failMeasure, recovery_eq]
    exact hy.xaddr
  | received x y es fs hx hok hy hok' ho =>
    subst ho
    have hread := ((hbegin.trans hx.keeps).trans (hwait _)).trans hy.keeps
    obtain ⟨hkeeps, hxaddr⟩ := decodePayload_keeps y.2
    exact ⟨hread.trans hkeeps, hxaddr.trans hy.xaddr⟩

theorem MeasureRun.reading_of_ne {s : State} {out : Result × State} {evs : List Event} (h : MeasureRun s out evs)
    (hne : out.1.code ≠ .ok) : reading out.2 = reading s := by
  cases h with
  | triggerFailed x _ hx hc ho =>
    subst ho
    exact hx.reading_eq
  | readFailed x y es fs hx hok hy hc ho =>
    subst ho
    rw [failMeasure, recovery_eq]
    exact hy.reading_eq.trans hx.reading_eq
  | received x y es fs hx hok hy hok' ho =>
    subst ho
    obtain ⟨-, -, hd⟩ | ⟨-, hr, -⟩ := decodePayload_cases y.2
    · rw [hd]
      exact hy.reading_eq.trans hx.reading_eq
    · exact absurd (congrArg Result.code hr) hne

theorem MeasureRun.pins_eq {s : State} {out : Result × State} {evs : List Event} (h : MeasureRun s out evs) :
    pins out.2 = if out.1.stage = .read then (true, true, true, true, .idle, 0#4) else pins s := by
  cases h with
  | triggerFailed x _ hx hc ho =>
    subst ho
    exact hx.pins_eq
  | readFailed x y es fs hx hok hy hc ho =>
    subst ho
    rw [failMeasure, recovery_eq]
    rfl
  | received x y es fs hx hok hy hok' ho =>
    subst ho
    have hpins : pins y.2 = pins s := hy.pins_eq.trans hx.pins_eq
    obtain ⟨-, hr, hd⟩ | ⟨-, hr, hd⟩ := decodePayload_cases y.2 <;> rw [hr, hd] <;> exact hpins

/-- Settles O34: each part of the cycle keeps what MEASURE may not write; only the recovery takes the pins, and only a
decode that succeeds shows a reading. -/
theorem measureFrame : Obligations.MeasureFrame := by
  intro s hs
  obtain ⟨out, evs, hexec, hrun, htrace⟩ := exec_measure_run hs
  have hidle : s.busy = false := hs.1
  obtain ⟨hkeeps, hxaddr⟩ := hrun.keeps
  refine ⟨_, evs, hexec, ?_, fun i => ?_, fun hne => ?_, ?_⟩
  · have hresult : (complete out.1 out.2).result = out.1 := rfl
    rw [hresult, ← htrace, hidle]
    conv_lhs => rw [complete_eq, hkeeps, measureFrom, hxaddr]
    rfl
  · rw [bufByte, complete_buf, complete_epoch, hkeeps]
    rfl
  · have hreading : reading out.2 = reading s := hrun.reading_of_ne hne
    simpa [reading] using hreading
  · have hpins : pins out.2 = if out.1.stage = .read then (true, true, true, true, .idle, 0#4) else pins s :=
      hrun.pins_eq
    by_cases hstage : out.1.stage = .read <;> simpa [pins, hstage] using hpins

/-! ### Events (R172 to R174, R184) -/

/-- The trigger hands over the address byte and the trigger byte, as far as it gets (R172). -/
theorem triggerLeg_txBytes {s : State} {x : Code × State} {es : List Event} (h : TriggerLeg s x es) :
    txBytes es <+: [0x88#8, 0x00#8] ∧ (x.1 = .ok → txBytes es = [0x88#8, 0x00#8]) := by
  cases h.outcome with
  | done hc hx he htx =>
    have hall : txBytes es = [0x88#8, 0x00#8] := htx
    exact ⟨hall ▸ List.prefix_rfl, fun _ => hall⟩
  | notAddressed hc hx he htx => exact ⟨by simp [htx], fun hok => by simp [hok] at hc⟩
  | notAnswered hc hx he htx =>
    have haddr : txBytes es = [0x88#8] := htx
    exact ⟨haddr ▸ ⟨[0x00#8], rfl⟩, fun hok => by simp [hok] at hc⟩
  | brokenOff hc hx he htx =>
    have hidx : x.2.xidx.toNat = 0 := Nat.lt_one_iff.mp hx
    have hall : txBytes es = [0x88#8, 0x00#8] := by rw [htx, hidx]; rfl
    exact ⟨hall ▸ List.prefix_rfl, fun _ => hall⟩

/-- The read hands over at most its address byte (R174). -/
theorem readLeg_txBytes {s : State} {y : Code × State} {es : List Event} (h : ReadLeg s y es) :
    txBytes es <+: [0x89#8] := by
  cases h.outcome with
  | done hc hx he htx =>
    have haddr : txBytes es = [0x89#8] := htx
    exact haddr ▸ List.prefix_rfl
  | notAddressed hc hx he htx => simp [htx]
  | notAnswered hc hx he htx =>
    have haddr : txBytes es = [0x89#8] := htx
    exact haddr ▸ List.prefix_rfl
  | brokenOff hc hx he htx =>
    have haddr : txBytes es = [0x89#8] := htx
    exact haddr ▸ List.prefix_rfl

/-- What follows the trigger, when it succeeded: the wait, the read, and `tail` (R173, R174). -/
theorem events_after_trigger {s s' : State} {x y : Code × State} {es fs : List Event} (hx : TriggerLeg s x es)
    (hok : x.1 = .ok) (hy : ReadLeg s' y fs) (tail : List Event) :
    ∃ es1 es2, es ++ [.dly 50000] ++ fs ++ tail = es1 ++ [.dly 50000] ++ es2 ++ tail ∧
      txBytes es1 = [0x88#8, 0x00#8] ∧ txBytes es2 <+: [0x89#8] ∧ occurs (.dly 50000) es1 = 0 ∧
      occurs (.dly 50000) es2 = 0 ∧ pinEvents es1 = 0 ∧ pinEvents es2 = 0 :=
  ⟨es, fs, rfl, (triggerLeg_txBytes hx).2 hok, readLeg_txBytes hy, hx.occurs rfl, hy.occurs rfl, hx.pinEvents,
    hy.pinEvents⟩

/-- Settles O36: the two transactions make bus events only, so the delays of 50 ms and the events on the pins are the
cycle's own. -/
theorem measureWaitsAndRecoversOnlyAfterItsRead : Obligations.MeasureWaitsAndRecoversOnlyAfterItsRead := by
  intro s hs
  obtain ⟨out, evs, hexec, hrun, htrace⟩ := exec_measure_run hs
  refine ⟨_, evs, hexec, htrace, ?_⟩
  rw [complete_result]
  cases hrun with
  | triggerFailed x _ hx hc ho =>
    subst ho
    have hrx : (rxBytes evs).length = 0 := hx.outcome.received
    exact ⟨hx.occurs rfl, hx.pinEvents, List.length_eq_zero_iff.mp hrx, (triggerLeg_txBytes hx).1⟩
  | readFailed x y es fs hx hok hy hc ho =>
    subst ho
    exact events_after_trigger hx hok hy _
  | received x y es fs hx hok hy hok' ho =>
    subst ho
    have hevents := events_after_trigger hx hok hy []
    rw [List.append_nil] at hevents
    obtain ⟨-, hr, -⟩ | ⟨-, hr, -⟩ := decodePayload_cases y.2 <;> rw [hr] <;> exact hevents

end Sys2Proof.Proofs
end

section
/-! ## Proofs: the fields of the sensor payload (R175 to R177) -/

open Sys2Proof Sys2Proof.Machine Sys2Proof.Safety

namespace Sys2Proof.Proofs

/-- A field above one of `j` bits. -/
theorem shiftLeft_or_toNat (hi lo : BitVec 14) {j : ℕ} (hlo : lo.toNat < 2 ^ j) (hhi : hi.toNat * 2 ^ j < 2 ^ 14) :
    ((hi <<< j) ||| lo).toNat = hi.toNat * 2 ^ j + lo.toNat := by
  rw [BitVec.toNat_or, BitVec.toNat_shiftLeft, Nat.shiftLeft_eq, Nat.mod_eq_of_lt hhi, mul_comm,
    Nat.two_pow_add_eq_or_of_lt hlo]

theorem and_0x3F_toNat (b : Byte) : (b &&& 0x3F#8).toNat = b.toNat % 64 := by
  rw [BitVec.toNat_and]
  exact Nat.and_two_pow_sub_one_eq_mod b.toNat 6

theorem payloadHumRaw_toNat (p : Payload) : (payloadHumRaw p).toNat = p.b0.toNat % 64 * 256 + p.b1.toNat := by
  have h0 : ((p.b0 &&& 0x3F#8).setWidth 14).toNat = p.b0.toNat % 64 := by
    rw [BitVec.toNat_setWidth, and_0x3F_toNat, Nat.mod_eq_of_lt (by omega)]
  have h1 : (p.b1.setWidth 14).toNat = p.b1.toNat := BitVec.toNat_setWidth_of_le (by decide)
  rw [payloadHumRaw, shiftLeft_or_toNat _ _ (by omega) (by omega), h0, h1]
  rfl

theorem payloadTempRaw_toNat (p : Payload) : (payloadTempRaw p).toNat = p.b3.toNat * 64 + p.b2.toNat / 4 := by
  have h3 : (p.b3.setWidth 14).toNat = p.b3.toNat := BitVec.toNat_setWidth_of_le (by decide)
  have h2 : (((p.b2 >>> 2) &&& 0x3F#8).setWidth 14).toNat = p.b2.toNat / 4 := by
    rw [BitVec.toNat_setWidth, and_0x3F_toNat, BitVec.toNat_ushiftRight, Nat.shiftRight_eq_div_pow]
    omega
  rw [payloadTempRaw, shiftLeft_or_toNat _ _ (by omega) (by omega), h3, h2]
  rfl

/-- The two status bits as a number. -/
theorem statusBits_toNat (p : Payload) : ((p.b0 >>> 6).setWidth 2).toNat = p.b0.toNat / 64 := by
  rw [BitVec.toNat_setWidth, BitVec.toNat_ushiftRight, Nat.shiftRight_eq_div_pow]
  omega

theorem payloadStatus_eq (p : Payload) :
    payloadStatus p =
      (if p.b0.toNat / 64 = 0 then StatusCode.valid else if p.b0.toNat / 64 = 1 then StatusCode.stale
        else if p.b0.toNat / 64 = 2 then StatusCode.notReady else StatusCode.reserved) := by
  simp only [payloadStatus, statusCodeOf, ← BitVec.toNat_inj, statusBits_toNat]
  rfl

/-- Settles O32: each field is two parts of two bytes side by side; the examples are evaluated. -/
theorem payloadFieldsAreExtracted : Obligations.PayloadFieldsAreExtracted := by
  refine ⟨fun p => ⟨payloadStatus_eq p, payloadHumRaw_toNat p, payloadTempRaw_toNat p⟩, ?_⟩
  decide

end Sys2Proof.Proofs
end

section
/-! ## Proofs: rounding to binary32 (R178, R179)

The value of a bit pattern and of a fraction as rationals; `roundFloat` answers a pattern whose value is an integral
significand at the scale of the fraction's value (`IsRounded`). From that follow the error of a rounding, the values it
keeps, and of what its result is a multiple. -/

open Sys2Proof Sys2Proof.Machine Sys2Proof.Safety

namespace Sys2Proof.Proofs

/-! ### Values -/

def ratio (v : Frac) : ℚ := v.num / v.den

/-- The value of a finite binary32 bit pattern (G1). -/
def value (w : Word) : ℚ := ratio (floatValue w)

/-- The exponent field. -/
def exponentField (w : Word) : ℕ := (w.extractLsb' 23 8).toNat

/-- The fraction field. -/
def fractionField (w : Word) : ℕ := (w.extractLsb' 0 23).toNat

/-- The significand as an integer: a normal number has its leading one. -/
def significand (w : Word) : ℕ := if exponentField w = 0 then fractionField w else fractionField w + 2 ^ 23

/-- The exponent, biased by 150: 1 for a subnormal number. -/
def scale (w : Word) : ℕ := if exponentField w = 0 then 1 else exponentField w

def signOf (negative : Bool) : ℚ := if negative then -1 else 1

theorem abs_signOf (negative : Bool) : |signOf negative| = 1 := by cases negative <;> simp [signOf]

theorem floatValue_den_pos (w : Word) : 0 < (floatValue w).den := by
  unfold floatValue
  dsimp only
  generalize (if (w.extractLsb' 23 8).toNat = 0 then 1 else (w.extractLsb' 23 8).toNat) = x
  split
  · exact Nat.one_pos
  · exact Nat.two_pow_pos _

theorem ratio_floatValue_of_scale (n : ℤ) (x : ℕ) :
    ratio (if 150 ≤ x then ⟨n * 2 ^ (x - 150), 1⟩ else ⟨n, 2 ^ (150 - x)⟩) = n * 2 ^ x / 2 ^ 150 := by
  split
  · have hx : (2 : ℚ) ^ x = 2 ^ (x - 150) * 2 ^ 150 := by rw [← pow_add]; congr 1; omega
    rw [hx, ratio]
    push_cast
    field_simp
  · have hx : (2 : ℚ) ^ 150 = 2 ^ (150 - x) * 2 ^ x := by rw [← pow_add]; congr 1; omega
    rw [hx, ratio]
    push_cast
    field_simp

theorem value_eq (w : Word) : value w = signOf (w.getLsbD 31) * significand w * 2 ^ scale w / 2 ^ 150 := by
  have hw := ratio_floatValue_of_scale (if w.getLsbD 31 then -(significand w : ℤ) else significand w) (scale w)
  have hsign : ((if w.getLsbD 31 then -(significand w : ℤ) else significand w : ℤ) : ℚ) =
      signOf (w.getLsbD 31) * significand w := by
    cases w.getLsbD 31 <;> simp [signOf]
  rw [hsign] at hw
  exact hw

theorem abs_value (w : Word) : |value w| = significand w * 2 ^ scale w / 2 ^ 150 := by
  rw [value_eq, abs_div, abs_mul, abs_mul, abs_signOf, one_mul]
  simp

/-! ### Patterns -/

/-- A magnitude below 2^31 with a sign bit. -/
def pattern (negative : Bool) (bits : ℕ) : Word :=
  if negative then BitVec.ofNat 32 bits ||| 0x80000000#32 else BitVec.ofNat 32 bits

theorem pattern_toNat (negative : Bool) {bits : ℕ} (h : bits < 2 ^ 31) :
    (pattern negative bits).toNat = (if negative then 2 ^ 31 else 0) + bits := by
  have hmod : bits % 2 ^ 32 = bits := Nat.mod_eq_of_lt (by omega)
  cases negative
  · simpa [pattern] using hmod
  · have hor := Nat.two_pow_add_eq_or_of_lt h 1
    rw [Nat.or_comm, mul_one] at hor
    simp only [pattern, if_true, BitVec.toNat_or, BitVec.toNat_ofNat, hmod]
    exact hor.symm

theorem pattern_fields (negative : Bool) {bits : ℕ} (h : bits < 2 ^ 31) :
    exponentField (pattern negative bits) = bits / 2 ^ 23 ∧ fractionField (pattern negative bits) = bits % 2 ^ 23 ∧
      (pattern negative bits).getLsbD 31 = negative := by
  have hw := pattern_toNat negative h
  refine ⟨?_, ?_, ?_⟩
  · rw [exponentField, BitVec.extractLsb'_toNat, hw, Nat.shiftRight_eq_div_pow]
    split <;> omega
  · rw [fractionField, BitVec.extractLsb'_toNat, hw, Nat.shiftRight_zero]
    split <;> omega
  · rw [← BitVec.testBit_toNat, hw, Nat.testBit_eq_decide_div_mod_eq]
    cases negative <;> simp <;> omega

/-- A significand `m` of at most 24 bits at the scale `x`, packed with its exponent: a carry lands in the exponent. -/
def packed (x m : ℕ) : ℕ := if m < 2 ^ 23 then m else (x - 1) * 2 ^ 23 + m

theorem packed_lt {x m : ℕ} (hx : x ≤ 250) (hm : m ≤ 2 ^ 24) : packed x m < 0x7F800000 := by
  unfold packed
  split <;> omega

theorem value_pattern (negative : Bool) {x m : ℕ} (hpos : 1 ≤ x) (hx : x ≤ 250) (hm : m ≤ 2 ^ 24)
    (hnormal : x = 1 ∨ 2 ^ 23 ≤ m) :
    value (pattern negative (packed x m)) = signOf negative * m * 2 ^ x / 2 ^ 150 := by
  have hlt := packed_lt hx hm
  obtain ⟨he, hf, hs⟩ := pattern_fields negative (bits := packed x m) (by omega)
  rw [value_eq, significand, scale, he, hf, hs]
  obtain hsub | hnorm | rfl : m < 2 ^ 23 ∨ (2 ^ 23 ≤ m ∧ m < 2 ^ 24) ∨ m = 2 ^ 24 := by omega
  · obtain rfl : x = 1 := by omega
    have hp : packed 1 m = m := if_pos hsub
    have hexp : m / 2 ^ 23 = 0 := by omega
    have hfrac : m % 2 ^ 23 = m := by omega
    rw [hp, hexp, hfrac]
    rfl
  · have hp : packed x m = (x - 1) * 2 ^ 23 + m := if_neg (by omega)
    have hexp : packed x m / 2 ^ 23 = x := by omega
    have hsig : packed x m % 2 ^ 23 + 2 ^ 23 = m := by omega
    rw [hexp, hsig, if_neg (by omega), if_neg (by omega)]
  · have hp : packed x (2 ^ 24) = (x - 1) * 2 ^ 23 + 2 ^ 24 := if_neg (by omega)
    have hexp : packed x (2 ^ 24) / 2 ^ 23 = x + 1 := by omega
    have hsig : packed x (2 ^ 24) % 2 ^ 23 + 2 ^ 23 = 2 ^ 23 := by omega
    rw [hexp, hsig, if_neg (by omega), if_neg (by omega), pow_succ]
    push_cast
    ring

/-! ### Rounding -/

/-- The rounded quotient is at most one half from the quotient. -/
theorem roundQuotient_near (n : ℕ) {d : ℕ} (hd : 0 < d) :
    2 * n ≤ 2 * (roundQuotient n d * d) + d ∧ 2 * (roundQuotient n d * d) ≤ 2 * n + d := by
  have hdiv : n / d * d + n % d = n := Nat.div_add_mod' n d
  have hmod := Nat.mod_lt n hd
  unfold roundQuotient
  dsimp only
  generalize n / d = q at *
  generalize n % d = r at *
  have hsucc : (q + 1) * d = q * d + d := by ring
  split
  · omega
  · split
    · split <;> omega
    · omega

/-- The scale of `n / d`: the significand has 24 bits, or fewer at the least scale. -/
theorem scaleOf_spec {n d : ℕ} (hn : n ≠ 0) (hd : d ≠ 0) :
    1 ≤ scaleOf n d ∧ n * 2 ^ 150 < d * 2 ^ (scaleOf n d + 24) ∧
      (scaleOf n d = 1 ∨ d * 2 ^ (scaleOf n d + 23) ≤ n * 2 ^ 150) := by
  have hn1 := Nat.log2_self_le hn
  have hn2 := Nat.lt_log2_self (n := n)
  have hd1 := Nat.log2_self_le hd
  have hd2 := Nat.lt_log2_self (n := d)
  have hbelow (x : ℕ) (hx : n.log2 + 151 ≤ d.log2 + x) : n * 2 ^ 150 < d * 2 ^ x :=
    calc n * 2 ^ 150 < 2 ^ (n.log2 + 1) * 2 ^ 150 := by gcongr
      _ = 2 ^ (n.log2 + 151) := by rw [← pow_add]
      _ ≤ 2 ^ (d.log2 + x) := Nat.pow_le_pow_right two_pos hx
      _ = 2 ^ d.log2 * 2 ^ x := pow_add _ _ _
      _ ≤ d * 2 ^ x := by gcongr
  have habove (x : ℕ) (hx : d.log2 + 1 + x ≤ n.log2 + 150) : d * 2 ^ x ≤ n * 2 ^ 150 :=
    calc d * 2 ^ x ≤ 2 ^ (d.log2 + 1) * 2 ^ x := by gcongr
      _ = 2 ^ (d.log2 + 1 + x) := by rw [← pow_add]
      _ ≤ 2 ^ (n.log2 + 150) := Nat.pow_le_pow_right two_pos hx
      _ = 2 ^ n.log2 * 2 ^ 150 := pow_add _ _ _
      _ ≤ n * 2 ^ 150 := by gcongr
  unfold scaleOf
  dsimp only
  generalize hx : (if n.log2 + 150 - d.log2 - 24 < 1 then 1 else n.log2 + 150 - d.log2 - 24) = x
  have hpos : 1 ≤ x := by split at hx <;> omega
  have hguess : n.log2 + 151 ≤ d.log2 + (x + 25) := by split at hx <;> omega
  split
  · exact ⟨by omega, hbelow _ hguess, .inr ‹_›⟩
  · refine ⟨hpos, by omega, ?_⟩
    by_cases h1 : x = 1
    · exact .inl h1
    · exact .inr (habove _ (by split at hx <;> omega))

/-- The scale of a quotient below 2^100 leaves room in the exponent field. -/
theorem scale_le {n d x : ℕ} (hlt : n < d * 2 ^ 100) (h : d * 2 ^ (x + 23) ≤ n * 2 ^ 150) : x ≤ 250 := by
  have hle : d * 2 ^ (x + 23) < d * 2 ^ 250 :=
    calc d * 2 ^ (x + 23) ≤ n * 2 ^ 150 := h
      _ < d * 2 ^ 100 * 2 ^ 150 := by gcongr
      _ = d * 2 ^ 250 := by rw [mul_assoc, ← pow_add]
  have hexp := (Nat.pow_lt_pow_iff_right (by decide)).mp (Nat.lt_of_mul_lt_mul_left hle)
  omega

/-- A quotient `n / u` below 2^24 is rounded to at most 2^24. -/
theorem roundQuotient_le {n u : ℕ} (hu : 0 < u) (h : n < 2 ^ 24 * u) : roundQuotient n u ≤ 2 ^ 24 := by
  obtain ⟨-, hnear⟩ := roundQuotient_near n hu
  by_contra hm
  have hmul : (2 ^ 24 + 1) * u ≤ roundQuotient n u * u := Nat.mul_le_mul_right _ (by omega)
  omega

/-- A quotient `n / u` from 2^23 on is rounded to 2^23 at least. -/
theorem le_roundQuotient {n u : ℕ} (hu : 0 < u) (h : 2 ^ 23 * u ≤ n) : 2 ^ 23 ≤ roundQuotient n u := by
  obtain ⟨hnear, -⟩ := roundQuotient_near n hu
  by_contra hm
  have hmul : roundQuotient n u * u ≤ (2 ^ 23 - 1) * u := Nat.mul_le_mul_right _ (by omega)
  omega

/-- `r` is `v` rounded: the multiple of 2^(x - 150) nearest to `v`, where `x` is the scale of `v`. -/
def IsRounded (v r : ℚ) : Prop :=
  ∃ (x : ℕ) (m : ℤ), r = m * 2 ^ x / 2 ^ 150 ∧ |m * 2 ^ x - v * 2 ^ 150| ≤ 2 ^ x / 2 ∧
    |v| * 2 ^ 150 < 2 ^ (x + 24) ∧ (x = 1 ∨ 2 ^ (x + 23) ≤ |v| * 2 ^ 150)

theorem isRounded_zero : IsRounded 0 0 := ⟨1, 0, by simp, by simp, by norm_num, .inl rfl⟩

theorem IsRounded.neg {v r : ℚ} (h : IsRounded v r) : IsRounded (-v) (-r) := by
  obtain ⟨x, m, rfl, hnear, hupper, hlower⟩ := h
  have hneg : ((-m : ℤ) : ℚ) * 2 ^ x - -v * 2 ^ 150 = -(m * 2 ^ x - v * 2 ^ 150) := by push_cast; ring
  refine ⟨x, -m, by push_cast; ring, ?_, by rwa [abs_neg], by rwa [abs_neg]⟩
  rwa [hneg, abs_neg]

theorem IsRounded.sign {v r : ℚ} (h : IsRounded v r) (negative : Bool) :
    IsRounded (signOf negative * v) (signOf negative * r) := by
  cases negative
  · simpa [signOf] using h
  · simpa [signOf] using h.neg

/-- A quotient below 2^100 is rounded at its scale, and packed with it. -/
theorem packMagnitude_rounds {n d : ℕ} (hn : n ≠ 0) (hd : d ≠ 0) (hlt : n < d * 2 ^ 100) (negative : Bool) :
    ∃ r, IsRounded (n / d) r ∧ value (pattern negative (packMagnitude n d)) = signOf negative * r := by
  obtain ⟨hpos, hupper, hlower⟩ := scaleOf_spec hn hd
  have hpack : packMagnitude n d =
      if packed (scaleOf n d) (roundQuotient (n * 2 ^ 150) (d * 2 ^ scaleOf n d)) < 0x7F800000 then
        packed (scaleOf n d) (roundQuotient (n * 2 ^ 150) (d * 2 ^ scaleOf n d)) else 0x7F800000 := if_neg hn
  generalize scaleOf n d = x at hpos hupper hlower hpack
  have hu : 0 < d * 2 ^ x := Nat.mul_pos (Nat.pos_of_ne_zero hd) (Nat.two_pow_pos x)
  have hx : x ≤ 250 := hlower.elim (fun h => by omega) (scale_le hlt)
  have hm := roundQuotient_le (n := n * 2 ^ 150) hu (by rw [mul_left_comm, ← pow_add, Nat.add_comm 24]; exact hupper)
  have hnormal : x = 1 ∨ 2 ^ 23 ≤ roundQuotient (n * 2 ^ 150) (d * 2 ^ x) :=
    hlower.imp_right fun h => le_roundQuotient hu (by rw [mul_left_comm, ← pow_add, Nat.add_comm 23]; exact h)
  obtain ⟨hnear, hnear'⟩ := roundQuotient_near (n * 2 ^ 150) hu
  generalize roundQuotient (n * 2 ^ 150) (d * 2 ^ x) = m at hm hnormal hnear hnear' hpack
  have hdq : (0 : ℚ) < d := by exact_mod_cast Nat.pos_of_ne_zero hd
  have habs : |(n / d : ℚ)| = n / d := abs_of_nonneg (by positivity)
  refine ⟨m * 2 ^ x / 2 ^ 150, ⟨x, m, by simp, ?_, ?_, ?_⟩, ?_⟩
  · have hnear1 : (2 * (n * 2 ^ 150) : ℚ) ≤ 2 * (m * (d * 2 ^ x)) + d * 2 ^ x := by exact_mod_cast hnear
    have hnear2 : (2 * (m * (d * 2 ^ x)) : ℚ) ≤ 2 * (n * 2 ^ 150) + d * 2 ^ x := by exact_mod_cast hnear'
    have hle : (n : ℚ) / d * 2 ^ 150 ≤ m * 2 ^ x + 2 ^ x / 2 := by
      rw [div_mul_eq_mul_div, div_le_iff₀ hdq]
      linarith
    have hge : (m : ℚ) * 2 ^ x - 2 ^ x / 2 ≤ n / d * 2 ^ 150 := by
      rw [div_mul_eq_mul_div, le_div_iff₀ hdq]
      linarith
    rw [Int.cast_natCast, abs_le]
    constructor <;> linarith
  · rw [habs, div_mul_eq_mul_div, div_lt_iff₀ hdq, mul_comm _ (d : ℚ)]
    exact_mod_cast hupper
  · refine hlower.imp_right fun h => ?_
    rw [habs, div_mul_eq_mul_div, le_div_iff₀ hdq, mul_comm _ (d : ℚ)]
    exact_mod_cast h
  · rw [hpack, if_pos (packed_lt hx hm), value_pattern negative hpos hx hm hnormal]
    ring

theorem ratio_eq (v : Frac) : ratio v = signOf (decide (v.num < 0)) * (v.num.natAbs / v.den) := by
  have hnum : (v.num : ℚ) = signOf (decide (v.num < 0)) * v.num.natAbs := by
    by_cases h : v.num < 0
    · simp [signOf, h, Nat.cast_natAbs, abs_of_neg h]
    · simp [signOf, h, Nat.cast_natAbs, abs_of_nonneg (not_lt.mp h)]
  rw [ratio, hnum, mul_div_assoc]

/-- The rounding of a fraction whose magnitude is below 2^100. -/
theorem roundFloat_isRounded {f : Frac} {v : ℚ} (hd : f.den ≠ 0) (hv : ratio f = v) (hlt : |v| < 2 ^ 100) :
    IsRounded v (value (roundFloat f)) := by
  subst hv
  have hround : roundFloat f = pattern (decide (f.num < 0)) (packMagnitude f.num.natAbs f.den) := by
    simp [roundFloat, pattern]
  by_cases hn : f.num.natAbs = 0
  · have hzero : f.num = 0 := Int.natAbs_eq_zero.mp hn
    have hratio : ratio f = 0 := by simp [ratio, hzero]
    have hplus : roundFloat f = pattern false 0 := by rw [hround, hzero]; rfl
    have hsignificand : significand (pattern false 0) = 0 := by decide
    have hvalue : value (pattern false 0) = 0 := by simp [value_eq, hsignificand]
    rw [hratio, hplus, hvalue]
    exact isRounded_zero
  · have hdq : (0 : ℚ) < f.den := by exact_mod_cast Nat.pos_of_ne_zero hd
    rw [ratio_eq, abs_mul, abs_signOf, one_mul, abs_of_nonneg (by positivity), div_lt_iff₀ hdq, mul_comm] at hlt
    obtain ⟨r, hr, hvalue⟩ := packMagnitude_rounds hn hd (by exact_mod_cast hlt) (decide (f.num < 0))
    rw [hround, ratio_eq, hvalue]
    exact hr.sign _

/-! ### What a rounding gives -/

section

variable {v r : ℚ}

/-- Below 2^k a rounding is off by at most 2^(k - 25). -/
theorem IsRounded.error (h : IsRounded v r) {k : ℕ} (hk : |v| < 2 ^ k) : |r - v| ≤ 2 ^ k / 2 ^ 25 := by
  obtain ⟨x, m, rfl, hnear, -, hlower⟩ := h
  have hx : x ≤ k + 126 := by
    obtain h1 | hle := hlower
    · omega
    · have hlt : (2 : ℚ) ^ (x + 23) < 2 ^ (k + 150) := hle.trans_lt (by rw [pow_add]; gcongr)
      have hexp := (pow_lt_pow_iff_right₀ (by norm_num)).mp hlt
      omega
  have hpow : (2 : ℚ) ^ x ≤ 2 ^ k * 2 ^ 126 := by
    rw [← pow_add]
    exact pow_le_pow_right₀ (by norm_num) hx
  have hscaled : m * 2 ^ x / 2 ^ 150 - v = (m * 2 ^ x - v * 2 ^ 150) / 2 ^ 150 := by field_simp
  rw [hscaled, abs_div, abs_of_pos (by positivity : (0 : ℚ) < 2 ^ 150), div_le_iff₀ (by positivity)]
  calc |m * 2 ^ x - v * 2 ^ 150| ≤ 2 ^ x / 2 := hnear
    _ ≤ 2 ^ k * 2 ^ 126 / 2 := by gcongr
    _ = 2 ^ k / 2 ^ 25 * 2 ^ 150 := by ring

/-- From 2^j on a rounding gives a multiple of 2^(j - 23). -/
theorem IsRounded.multiple (h : IsRounded v r) {j : ℕ} (hj : 2 ^ j ≤ |v|) : ∃ k : ℤ, r = k * 2 ^ j / 2 ^ 23 := by
  obtain ⟨x, m, rfl, -, hupper, -⟩ := h
  have hlt : (2 : ℚ) ^ (j + 150) < 2 ^ (x + 24) := lt_of_le_of_lt (by rw [pow_add]; gcongr) hupper
  have hexp := (pow_lt_pow_iff_right₀ (by norm_num)).mp hlt
  obtain ⟨i, rfl⟩ : ∃ i, x = i + j + 127 := ⟨x - j - 127, by omega⟩
  refine ⟨m * 2 ^ i, ?_⟩
  push_cast
  ring

/-- A significand of 24 bits is kept. -/
theorem IsRounded.exact (h : IsRounded v r) {k : ℤ} {y : ℕ} (hy : 1 ≤ y) (hk : |k| < 2 ^ 24)
    (hv : v = k * 2 ^ y / 2 ^ 150) : r = v := by
  obtain ⟨x, m, rfl, hnear, -, hlower⟩ := h
  have hv150 : v * 2 ^ 150 = k * 2 ^ y := by rw [hv]; field_simp
  have hkq : |(k : ℚ)| < 2 ^ 24 := by exact_mod_cast hk
  have hxy : x ≤ y := by
    obtain h1 | hle := hlower
    · omega
    · have hlt : (2 : ℚ) ^ (x + 23) < 2 ^ (y + 24) :=
        calc (2 : ℚ) ^ (x + 23) ≤ |v| * 2 ^ 150 := hle
          _ = |v * 2 ^ 150| := by rw [abs_mul, abs_of_pos (by positivity : (0 : ℚ) < 2 ^ 150)]
          _ = |(k : ℚ)| * 2 ^ y := by rw [hv150, abs_mul, abs_of_pos (by positivity : (0 : ℚ) < 2 ^ y)]
          _ < 2 ^ 24 * 2 ^ y := by gcongr
          _ = 2 ^ (y + 24) := by ring
      have hexp := (pow_lt_pow_iff_right₀ (by norm_num)).mp hlt
      omega
  obtain ⟨i, rfl⟩ : ∃ i, y = x + i := ⟨y - x, by omega⟩
  have hpos : (0 : ℚ) < 2 ^ x := by positivity
  have hfactor : m * 2 ^ x - v * 2 ^ 150 = ((m - k * 2 ^ i : ℤ) : ℚ) * 2 ^ x := by
    rw [hv150]
    push_cast
    ring
  rw [hfactor, abs_mul, abs_of_pos hpos] at hnear
  have hhalf : |((m - k * 2 ^ i : ℤ) : ℚ)| < 1 := lt_of_mul_lt_mul_right (by linarith) hpos.le
  have hint : m - k * 2 ^ i = 0 := Int.abs_lt_one_iff.mp (by exact_mod_cast hhalf)
  have hm : m = k * 2 ^ i := by omega
  rw [hv, hm]
  push_cast
  ring

end

end Sys2Proof.Proofs
end

section
/-! ## Proofs: the default NUM and the clamp (R178 to R181)

The errors of the steps of each mapping add up to less than 2^-16 of the exact value; the last subtraction of NUM.temp is
exact where the product's error is largest. Order, normality and the clamp follow from that bound and from the two ends. -/

open Sys2Proof Sys2Proof.Machine Sys2Proof.Safety

namespace Sys2Proof.Proofs

/-! ### The operations on values -/

theorem floatValue_den_ne_zero (w : Word) : (floatValue w).den ≠ 0 := (floatValue_den_pos w).ne'

theorem floatValue_den_cast (w : Word) : ((floatValue w).den : ℚ) ≠ 0 := by
  exact_mod_cast floatValue_den_ne_zero w

theorem fdiv32_isRounded {a b : Word} (hb : 0 < (floatValue b).num) (hlt : |value a / value b| < 2 ^ 100) :
    IsRounded (value a / value b) (value (fdiv32 a b)) := by
  have ha := floatValue_den_cast a
  have hb' := floatValue_den_cast b
  have hnat : ((floatValue b).num.natAbs : ℚ) = (floatValue b).num := by
    rw [Nat.cast_natAbs, abs_of_pos hb]
  have hnum : ((floatValue b).num : ℚ) ≠ 0 := by exact_mod_cast hb.ne'
  refine roundFloat_isRounded (Nat.mul_ne_zero (floatValue_den_ne_zero a) (by omega)) ?_ hlt
  simp only [ratio, value]
  push_cast
  rw [hnat]
  field_simp

theorem fmul32_isRounded {a b : Word} (hlt : |value a * value b| < 2 ^ 100) :
    IsRounded (value a * value b) (value (fmul32 a b)) := by
  refine roundFloat_isRounded (Nat.mul_ne_zero (floatValue_den_ne_zero a) (floatValue_den_ne_zero b)) ?_ hlt
  simp only [ratio, value]
  push_cast
  rw [mul_div_mul_comm]

theorem fsub32_isRounded {a b : Word} (hlt : |value a - value b| < 2 ^ 100) :
    IsRounded (value a - value b) (value (fsub32 a b)) := by
  refine roundFloat_isRounded (Nat.mul_ne_zero (floatValue_den_ne_zero a) (floatValue_den_ne_zero b)) ?_ hlt
  simp only [ratio, value]
  push_cast
  rw [div_sub_div _ _ (floatValue_den_cast a) (floatValue_den_cast b)]
  congr 1
  ring

theorem value_of_floatValue {w : Word} {n : ℤ} {d : ℕ} (h : floatValue w = ⟨n * d, d⟩) (hd : d ≠ 0) : value w = n := by
  have hdq : (d : ℚ) ≠ 0 := by exact_mod_cast hd
  rw [value, h, ratio]
  push_cast
  field_simp

theorem value_f16383 : value f16383 = 16383 := value_of_floatValue (n := 16383) (d := 2 ^ 10) (by decide) (by decide)
theorem value_f100 : value f100 = 100 := value_of_floatValue (n := 100) (d := 2 ^ 17) (by decide) (by decide)
theorem value_f165 : value f165 = 165 := value_of_floatValue (n := 165) (d := 2 ^ 16) (by decide) (by decide)
theorem value_f40 : value f40 = 40 := value_of_floatValue (n := 40) (d := 2 ^ 18) (by decide) (by decide)
theorem value_fTempLo : value fTempLo = -40 := by
  exact_mod_cast value_of_floatValue (n := -40) (d := 2 ^ 18) (by decide) (by decide)
theorem value_fTempHi : value fTempHi = 125 := value_of_floatValue (n := 125) (d := 2 ^ 17) (by decide) (by decide)

/-- An integer of 24 bits is converted exactly. -/
theorem value_cvt32 {n : ℕ} (hn : n < 2 ^ 24) : value (cvt32 n) = n := by
  have hratio : ratio ⟨(n : ℤ), 1⟩ = n := by simp [ratio]
  have hlt : |(n : ℚ)| < 2 ^ 100 := by
    rw [abs_of_nonneg (by positivity)]
    calc (n : ℚ) < 2 ^ 24 := by exact_mod_cast hn
      _ < 2 ^ 100 := by norm_num
  have h : IsRounded n (value (cvt32 n)) := roundFloat_isRounded one_ne_zero hratio hlt
  refine h.exact (k := n) (y := 150) (by decide) ?_ (by push_cast; field_simp)
  rw [abs_of_nonneg (by positivity)]
  exact_mod_cast hn

/-! ### The errors of the steps (R178, R179) -/

/-- The quotient by 16383, the first step of both mappings. -/
def quotient (n : ℕ) : Word := fdiv32 (cvt32 n) f16383

theorem quotient_error {n : ℕ} (hn : n < 16383) : |value (quotient n) - n / 16383| ≤ 1 / 2 ^ 25 := by
  have hv : value (cvt32 n) / value f16383 = n / 16383 := by
    rw [value_cvt32 (by omega), value_f16383]
  have hlt : |(n / 16383 : ℚ)| < 2 ^ 0 := by
    rw [abs_of_nonneg (by positivity), pow_zero, div_lt_one (by norm_num)]
    exact_mod_cast hn
  have h : IsRounded (n / 16383) (value (quotient n)) :=
    hv ▸ fdiv32_isRounded (by decide) (hv ▸ hlt.trans (by norm_num))
  simpa using h.error hlt

/-- The value of the quotient lies in [0, 1], up to its error. -/
theorem quotient_bounds {n : ℕ} (hn : n < 16383) :
    -(1 / 2 ^ 25) ≤ value (quotient n) ∧ value (quotient n) ≤ 1 + 1 / 2 ^ 25 := by
  have h := abs_le.mp (quotient_error hn)
  have hpos : (0 : ℚ) ≤ n / 16383 := by positivity
  have hle : (n / 16383 : ℚ) ≤ 1 := by
    rw [div_le_one (by norm_num)]
    exact_mod_cast hn.le
  constructor <;> linarith [h.1, h.2]

theorem numHum_error_of_lt {h : BitVec 14} (hn : h.toNat < 16383) :
    |value (numHum h) - 100 * h.toNat / 16383| ≤ 1 / 2 ^ 16 := by
  obtain ⟨hlo, hhi⟩ := quotient_bounds hn
  have hquot := abs_le.mp (quotient_error hn)
  have hlt : |value (quotient h.toNat) * value f100| < 2 ^ 7 := by
    rw [value_f100, abs_lt]
    constructor <;> linarith
  have hmul : IsRounded (value (quotient h.toNat) * value f100) (value (numHum h)) :=
    fmul32_isRounded (hlt.trans (by norm_num))
  have hprod := abs_le.mp (hmul.error hlt)
  rw [value_f100] at hprod
  have hexact : (100 * h.toNat / 16383 : ℚ) = 100 * (h.toNat / 16383) := by ring
  rw [hexact, abs_le]
  constructor <;> linarith [hquot.1, hquot.2, hprod.1, hprod.2]

/-- The last two steps of NUM.temp: the subtraction is exact when the product is 128 or more, because 40 and the product
are multiples of 2^-16 then; below that both errors are at most 2^-18. -/
theorem temperature_error {q : Word} (hlo : -(1 / 2 ^ 25) ≤ value q) (hhi : value q ≤ 1 + 1 / 2 ^ 25) :
    |value (fsub32 (fmul32 q f165) f40) - (165 * value q - 40)| ≤ 2 ^ 8 / 2 ^ 25 := by
  have hlt : |value q * value f165| < 2 ^ 8 := by
    rw [value_f165, abs_lt]
    constructor <;> linarith
  have hmul : IsRounded (value q * value f165) (value (fmul32 q f165)) := fmul32_isRounded (hlt.trans (by norm_num))
  have hprod := abs_le.mp (hmul.error hlt)
  generalize fmul32 q f165 = p at hmul hprod ⊢
  rw [value_f165] at hmul hprod
  have hsmall : |value p - value f40| < 2 ^ 7 := by
    rw [value_f40, abs_lt]
    constructor <;> linarith [hprod.1, hprod.2]
  have hsub : IsRounded (value p - value f40) (value (fsub32 p f40)) := fsub32_isRounded (hsmall.trans (by norm_num))
  obtain hlarge | hless := le_or_gt (2 ^ 7) |value q * 165|
  · obtain ⟨k, hk⟩ := hmul.multiple hlarge
    have hdiff : value p - value f40 = ((k - 40 * 2 ^ 16 : ℤ) : ℚ) / 2 ^ 16 := by
      rw [hk, value_f40]
      push_cast
      ring
    have hbits : |k - 40 * 2 ^ 16| < 2 ^ 24 := by
      rw [hdiff, abs_div, abs_of_pos (by norm_num : (0 : ℚ) < 2 ^ 16), div_lt_iff₀ (by norm_num)] at hsmall
      have hcast : |k - 40 * 2 ^ 16| < 2 ^ 7 * 2 ^ 16 := by exact_mod_cast hsmall
      exact hcast.trans (by norm_num)
    have hexact := hsub.exact (y := 134) (by decide) hbits (hdiff.trans (by ring))
    rw [hexact, value_f40, abs_le]
    constructor <;> linarith [hprod.1, hprod.2]
  · have hprod' := abs_le.mp (hmul.error hless)
    have hdiff := abs_le.mp (hsub.error hsmall)
    rw [value_f40] at hdiff
    rw [abs_le]
    constructor <;> linarith [hprod'.1, hprod'.2, hdiff.1, hdiff.2]

theorem numTemp_error_of_lt {t : BitVec 14} (hn : t.toNat < 16383) :
    |value (numTemp t) - (165 * t.toNat / 16383 - 40)| ≤ 1 / 2 ^ 16 := by
  obtain ⟨hlo, hhi⟩ := quotient_bounds hn
  have hquot := abs_le.mp (quotient_error hn)
  have hrest : |value (numTemp t) - (165 * value (quotient t.toNat) - 40)| ≤ 2 ^ 8 / 2 ^ 25 := temperature_error hlo hhi
  have hexact : (165 * t.toNat / 16383 - 40 : ℚ) = 165 * (t.toNat / 16383) - 40 := by ring
  rw [abs_le] at hrest
  rw [hexact, abs_le]
  constructor <;> linarith [hquot.1, hquot.2, hrest.1, hrest.2]

/-! ### The ends, and the errors over all inputs -/

theorem numHum_ends : numHum 0#14 = 0x00000000#32 ∧ numHum 16383#14 = f100 := by decide

theorem numTemp_ends : numTemp 0#14 = fTempLo ∧ numTemp 16383#14 = fTempHi := by decide

theorem lt_or_eq_last (n : BitVec 14) : n.toNat < 16383 ∨ n = 16383#14 := by bv_omega

theorem numHum_error (h : BitVec 14) : |value (numHum h) - 100 * h.toNat / 16383| ≤ 1 / 2 ^ 16 := by
  obtain hlt | rfl := lt_or_eq_last h
  · exact numHum_error_of_lt hlt
  · rw [numHum_ends.2, value_f100]
    norm_num

theorem numTemp_error (t : BitVec 14) : |value (numTemp t) - (165 * t.toNat / 16383 - 40)| ≤ 1 / 2 ^ 16 := by
  obtain hlt | rfl := lt_or_eq_last t
  · exact numTemp_error_of_lt hlt
  · rw [numTemp_ends.2, value_fTempHi]
    norm_num

/-! ### The statements' vocabulary on values -/

theorem flt32_iff (a b : Word) : flt32 a b = true ↔ value a < value b := by
  have ha : (0 : ℚ) < (floatValue a).den := by exact_mod_cast floatValue_den_pos a
  have hb : (0 : ℚ) < (floatValue b).den := by exact_mod_cast floatValue_den_pos b
  rw [value, value, ratio, ratio, div_lt_div_iff₀ ha hb, flt32, decide_eq_true_iff]
  exact_mod_cast Iff.rfl

theorem flt32_eq_false_iff (a b : Word) : flt32 a b = false ↔ value b ≤ value a := by
  rw [← not_lt, ← flt32_iff, Bool.not_eq_true]

theorem within_of_value {w : Word} {n : ℤ} {d : ℕ} (hd : 0 < d) (h : |value w - n / d| ≤ 1 / 2 ^ 16) :
    within w n d := by
  have hden : (0 : ℚ) < (floatValue w).den := by exact_mod_cast floatValue_den_pos w
  have hdq : (0 : ℚ) < d := by exact_mod_cast hd
  rw [value, ratio, div_sub_div _ _ hden.ne' hdq.ne', abs_div, abs_of_pos (mul_pos hden hdq),
    div_le_div_iff₀ (mul_pos hden hdq) (by norm_num), one_mul, mul_comm _ (n : ℚ)] at h
  have hint : (|(floatValue w).num * d - n * (floatValue w).den| : ℚ) * 65536 ≤ (floatValue w).den * d := by
    norm_num at h ⊢
    exact h
  unfold within
  zify
  exact_mod_cast hint

theorem fractionField_lt (w : Word) : fractionField w < 2 ^ 23 := (w.extractLsb' 0 23).isLt

/-- A value that is neither tiny nor huge has a normal pattern. -/
theorem normalFloat_of_value {w : Word} (hlo : 1 / 2 ^ 100 ≤ |value w|) (hhi : |value w| < 2 ^ 100) : normalFloat w := by
  rw [abs_value] at hlo hhi
  refine ⟨fun h => ?_, fun h => ?_⟩
  · have he : exponentField w = 0 := congrArg BitVec.toNat h
    have hsig : (significand w : ℚ) < 2 ^ 23 := by
      rw [significand, if_pos he]
      exact_mod_cast fractionField_lt w
    rw [scale, if_pos he] at hlo
    norm_num at hlo
    linarith
  · have he : exponentField w = 255 := congrArg BitVec.toNat h
    have hsig : (2 : ℚ) ^ 23 ≤ significand w := by
      rw [significand, if_neg (by omega)]
      push_cast
      linarith [(Nat.cast_nonneg (fractionField w) : (0 : ℚ) ≤ fractionField w)]
    rw [scale, if_neg (by omega), he] at hhi
    norm_num at hhi
    linarith

/-! ### The statements -/

/-- A value between 1/16384 and 256 in magnitude has a normal pattern. -/
theorem normalFloat_of_reading {w : Word} (hlo : 1 / 2 ^ 14 ≤ |value w|) (hhi : |value w| ≤ 2 ^ 8) : normalFloat w :=
  normalFloat_of_value (le_trans (by norm_num) hlo) (hhi.trans_lt (by norm_num))

theorem toNat_le_last (n : BitVec 14) : (n.toNat : ℚ) ≤ 16383 := by
  have h : n.toNat ≤ 16383 := Nat.le_of_lt_succ n.isLt
  exact_mod_cast h

theorem numHum_normal {h : BitVec 14} (hne : h ≠ 0#14) : normalFloat (numHum h) := by
  have herr := abs_le.mp (numHum_error h)
  have hlast := toNat_le_last h
  have hone : (1 : ℚ) ≤ h.toNat := by
    have hpos : 1 ≤ h.toNat := by bv_omega
    exact_mod_cast hpos
  have hpos : 1 / 2 ^ 14 ≤ value (numHum h) := by linarith [herr.1]
  have habs : |value (numHum h)| = value (numHum h) := abs_of_nonneg (le_trans (by norm_num) hpos)
  exact normalFloat_of_reading (by rwa [habs]) (by rw [habs]; linarith [herr.2])

/-- No TEMP_RAW stands for 0 degrees: 165 t and 40 * 16383 are at least 15 apart. -/
theorem numTemp_normal (t : BitVec 14) : normalFloat (numTemp t) := by
  have herr := abs_le.mp (numTemp_error t)
  have hlast := toNat_le_last t
  have hfirst : (0 : ℚ) ≤ t.toNat := by positivity
  have hapart : 165 * t.toNat + 15 ≤ 40 * 16383 ∨ 40 * 16383 + 15 ≤ 165 * t.toNat := by omega
  refine normalFloat_of_reading ?_ ?_
  · obtain hbelow | habove := hapart
    · have hq : (165 * t.toNat + 15 : ℚ) ≤ 40 * 16383 := by exact_mod_cast hbelow
      exact le_abs.mpr (.inr (by linarith [herr.2]))
    · have hq : (40 * 16383 + 15 : ℚ) ≤ 165 * t.toNat := by exact_mod_cast habove
      exact le_abs.mpr (.inl (by linarith [herr.1]))
  · rw [abs_le]
    constructor <;> linarith [herr.1, herr.2]

/-- Settles O38: the errors of the steps add up to less than 2^-16, which leaves every value but +0.0 away from 0. -/
theorem numMeetsItsContract : Obligations.NumMeetsItsContract := by
  obtain ⟨hhum0, hhum1⟩ := numHum_ends
  obtain ⟨htemp0, htemp1⟩ := numTemp_ends
  have hclamp : clampTemp fTempHi = fTempHi := by decide
  refine ⟨fun h => ⟨within_of_value (by decide) ?_, numHum_normal⟩,
    fun t => ⟨within_of_value (by decide) ?_, numTemp_normal t⟩, hhum0, hhum1, htemp0, by rw [htemp1]; exact hclamp⟩
  · push_cast
    exact numHum_error h
  · have hexact : ((165 * (t.toNat : ℤ) - 40 * 16383 : ℤ) : ℚ) / (16383 : ℕ) = 165 * t.toNat / 16383 - 40 := by
      push_cast
      ring
    rw [hexact]
    exact numTemp_error t

/-- Settles O39: two neighbouring exact values are further apart than twice the error. -/
theorem numIsStrictlyIncreasing : Obligations.NumIsStrictlyIncreasing := by
  intro x y hxy
  have hgap : (x.toNat + 1 : ℚ) ≤ y.toNat := by exact_mod_cast hxy
  have hhum := abs_le.mp (numHum_error x)
  have hhum' := abs_le.mp (numHum_error y)
  have htemp := abs_le.mp (numTemp_error x)
  have htemp' := abs_le.mp (numTemp_error y)
  rw [flt32_iff, flt32_iff]
  constructor <;> linarith [hhum.2, hhum'.1, htemp.2, htemp'.1]

theorem clampTemp_of_between {v : Word} (hlo : -40 ≤ value v) (hhi : value v ≤ 125) : clampTemp v = v := by
  have hnlo : flt32 v fTempLo = false := (flt32_eq_false_iff _ _).mpr (by rwa [value_fTempLo])
  have hnhi : flt32 fTempHi v = false := (flt32_eq_false_iff _ _).mpr (by rwa [value_fTempHi])
  simp [clampTemp, hnlo, hnhi]

/-- The clamp's result lies in [-40, 125] (R180). -/
theorem clampTemp_between (v : Word) : -40 ≤ value (clampTemp v) ∧ value (clampTemp v) ≤ 125 := by
  by_cases hlo : flt32 v fTempLo = true
  · rw [clampTemp, if_pos hlo, value_fTempLo]
    norm_num
  by_cases hhi : flt32 fTempHi v = true
  · rw [clampTemp, if_neg hlo, if_pos hhi, value_fTempHi]
    norm_num
  rw [clampTemp, if_neg hlo, if_neg hhi]
  rw [flt32_iff, value_fTempLo, not_lt] at hlo
  rw [flt32_iff, value_fTempHi, not_lt] at hhi
  exact ⟨hlo, hhi⟩

/-- Settles O37: the default NUM is exact at both ends and strictly increasing between them. -/
theorem temperatureIsClamped : Obligations.TemperatureIsClamped := by
  obtain ⟨hend0, hend1⟩ := numTemp_ends
  have hinside (t : BitVec 14) (h0 : t ≠ 0#14) (h1 : t ≠ 16383#14) :
      flt32 fTempLo (numTemp t) = true ∧ flt32 (numTemp t) fTempHi = true := by
    rw [← hend0, ← hend1]
    exact ⟨(numIsStrictlyIncreasing 0#14 t (by bv_omega)).2, (numIsStrictlyIncreasing t 16383#14 (by bv_omega)).2⟩
  refine ⟨fun v => ?_, fun t => ?_, hinside⟩
  · obtain ⟨hlo, hhi⟩ := clampTemp_between v
    simp only [flt32_eq_false_iff, value_fTempLo, value_fTempHi]
    exact ⟨hlo, hhi, clampTemp_of_between⟩
  · by_cases h0 : t = 0#14
    · subst h0
      rw [hend0]
      decide
    by_cases h1 : t = 16383#14
    · subst h1
      rw [hend1]
      decide
    obtain ⟨hlo, hhi⟩ := hinside t h0 h1
    rw [flt32_iff, value_fTempLo] at hlo
    rw [flt32_iff, value_fTempHi] at hhi
    exact clampTemp_of_between hlo.le hhi.le

end Sys2Proof.Proofs
end

section
/-! ## Proofs: a transaction of one constant byte, which is a probe (R142 to R150, R190)

A probe waits for a free bus, makes its start condition, and hands over its address byte and its one data byte as far as
it gets. `Unstarted` says that of events without a start condition; a probe is such events, then perhaps a start
condition and more of them (`ConstXactEvents`). `ConstXact` adds what such a transaction leaves alone. -/

open Sys2Proof Sys2Proof.Machine Sys2Proof.Safety

namespace Sys2Proof.Proofs

/-- `es` makes no start condition and at most one stop, and hands over the bytes `tx` in order as far as it gets. -/
structure Unstarted (tx : List Byte) (es : List Event) : Prop where
  tx     : txBytes es <+: tx
  starts : occurs .start es = 0
  stops  : occurs .stop es ≤ 1

theorem Unstarted.txByStart {tx : List Byte} {es : List Event} (h : Unstarted tx es) :
    txByStart es = (txBytes es, []) := by
  have hnone : (Safety.txByStart es).2 = [] := List.length_eq_zero_iff.mp ((txByStart_length es).trans h.starts)
  have htx := txBytes_eq_txByStart es
  rw [hnone, List.flatten_nil, List.append_nil] at htx
  exact Prod.ext htx.symm hnone

theorem occurs_map_smp {e : Event} (he : isSample e = false) (fs : List Flags) : occurs e (fs.map .smp) = 0 := by
  refine List.countP_eq_zero.mpr fun x hx hxe => ?_
  obtain ⟨f, -, rfl⟩ := List.mem_map.mp hx
  obtain rfl : Event.smp f = e := of_decide_eq_true hxe
  cases he

/-- Samples before such events. -/
theorem Unstarted.after_samples {tx : List Byte} {es : List Event} (h : Unstarted tx es) (fs : List Flags) :
    Unstarted tx (fs.map .smp ++ es) where
  tx := by rw [txBytes_append, txBytes_map_smp]; exact h.tx
  starts := by rw [occurs_append, occurs_map_smp rfl, h.starts]
  stops := by rw [occurs_append, occurs_map_smp rfl, Nat.zero_add]; exact h.stops

theorem Unstarted.after_tx {tx : List Byte} {es : List Event} (h : Unstarted tx es) (v : Byte) :
    Unstarted (v :: tx) (.tx v :: es) where
  tx := List.cons_prefix_cons.mpr ⟨rfl, h.tx⟩
  starts := by rw [occurs_cons, h.starts]; rfl
  stops := by rw [occurs_cons]; exact h.stops

/-- A failure's exit makes at most one stop (R148, R149). -/
theorem unstarted_exitEvents (c : Code) (tx : List Byte) : Unstarted tx (exitEvents c) := by
  cases c <;> exact ⟨List.nil_prefix, rfl, by decide⟩

/-- From `s` to `t` the block makes the events `pre` and then, with no further start condition, hands over `tx` as far
as it gets. -/
def Follows (pre : List Event) (tx : List Byte) (s t : State) : Prop :=
  ∃ es, t.trace = s.trace ++ (pre ++ es) ∧ Unstarted tx es

theorem Follows.tx {v : Byte} {tx : List Byte} {s t : State} (h : Follows [.tx v] tx s t) :
    Follows [] (v :: tx) s t := by
  obtain ⟨es, ht, hes⟩ := h
  exact ⟨_, ht, hes.after_tx v⟩

theorem Follows.of_trace_eq {pre : List Event} {tx : List Byte} {s s' t : State} (h : Follows pre tx s t)
    (hs : s'.trace = s.trace) : Follows pre tx s' t := by
  obtain ⟨es, ht, hes⟩ := h
  exact ⟨es, by rw [hs, ht], hes⟩

/-- A phase from `s` makes the events `pre`, samples and the exit its code asks for. -/
def PollPhase (pre : List Event) (s : State) (r : Code × State) : Prop :=
  ∃ fs : List Flags, r.2.trace = s.trace ++ (pre ++ fs.map .smp ++ exitEvents r.1)

/-- A poll after the first events of its phase makes samples only. -/
theorem poll_trace {s t : State} {pre : List Event} (c : PollCond) (watch : Bool) {b : Word} (hb : b ≠ 0#32)
    (ht : t.trace = s.trace ++ pre) :
    ∃ fs : List Flags, (poll c watch b t).2.trace = s.trace ++ (pre ++ fs.map .smp) := by
  obtain ⟨j, -, -, -, hstate, -⟩ := poll_run c watch t hb
  exact ⟨(List.range j).map (flagsAhead t), by simp [hstate, sampled, ht]⟩

section

variable {b : Word} {pre : List Event} {tx : List Byte} {s : State} {r : Code × State} {k : State → Code × State}
  {c : Code} {t u : State} {fs : List Flags}

/-- A phase, and what follows it if it succeeds. -/
theorem PollPhase.andThen (h : PollPhase pre s r) (hk : ∀ t, Follows [] tx t (k t).2) :
    Follows pre tx s (andThen r k).2 := by
  obtain ⟨fs, hr⟩ := h
  by_cases hok : r.1 = .ok
  · obtain ⟨es, hes, hun⟩ := hk r.2
    rw [andThen_of_ok hok]
    refine ⟨fs.map .smp ++ es, ?_, hun.after_samples fs⟩
    rw [hes, hr, hok]
    simp [exitEvents]
  · rw [andThen_of_ne hok]
    exact ⟨_, by rw [hr, List.append_assoc], (unstarted_exitEvents r.1 tx).after_samples fs⟩

/-- What follows a phase makes no event. -/
theorem PollPhase.andThen_silent (h : PollPhase pre s r) (hk : ∀ t, (k t).1 = .ok ∧ (k t).2.trace = t.trace) :
    PollPhase pre s (Machine.andThen r k) := by
  by_cases hok : r.1 = .ok
  · obtain ⟨hcode, htrace⟩ := hk r.2
    obtain ⟨fs, hr⟩ := h
    rw [andThen_of_ok hok]
    exact ⟨fs, by rw [htrace, hcode, hr, hok]⟩
  · rwa [andThen_of_ne hok]

/-- Nothing follows the samples: success, or the plain exit (R149). -/
theorem pollPhase_plain (ht : t.trace = s.trace ++ (pre ++ fs.map .smp)) (hu : u.trace = t.trace)
    (hc : exitEvents c = []) : PollPhase pre s (c, u) :=
  ⟨fs, by rw [hc, List.append_nil]; exact hu.trans ht⟩

/-- The NACK exit follows the samples (R148). -/
theorem pollPhase_nack (ht : t.trace = s.trace ++ (pre ++ fs.map .smp)) (hc : c = .addressNack ∨ c = .dataNack) :
    PollPhase pre s (failNack c t) := by
  have hexit : (failNack c t).2.trace = t.trace ++ exitEvents c := by
    obtain rfl | rfl := hc <;> simp [failNack, exitEvents, Config.tNackSettle]
  exact ⟨fs, by rw [hexit, ht, List.append_assoc]; rfl⟩

theorem startPhase_pollPhase (s : State) (hb : b ≠ 0#32) : PollPhase [.start] s (startPhase .write b s) := by
  obtain ⟨fs, hfs⟩ := poll_trace (s := s) (t := luStart (startAck .write { s with estate := .start })) .txReady false hb
    rfl
  unfold startPhase
  dsimp only
  split
  · exact pollPhase_plain hfs rfl rfl
  · exact pollPhase_plain hfs rfl rfl

theorem addressPhase_pollPhase (a : BusAddr) (d : Dir) (s : State) (hb : b ≠ 0#32) :
    PollPhase [.tx (addressByte a d)] s (addressPhase a d b s) := by
  obtain ⟨fs, hfs⟩ := poll_trace (s := s) (t := luTxWrite (addressByte a d) { s with estate := .addr }) .txReady true hb
    rfl
  unfold addressPhase
  dsimp only
  split
  · exact pollPhase_plain hfs rfl rfl
  · exact pollPhase_nack hfs (.inl rfl)
  · exact pollPhase_plain hfs rfl rfl

theorem dataTx_pollPhase (v : Byte) (s : State) (hb : b ≠ 0#32) : PollPhase [.tx v] s (dataTx v b s) := by
  obtain ⟨fs, hfs⟩ := poll_trace (s := s) (t := luTxWrite v s) .txReady true hb rfl
  unfold dataTx
  dsimp only
  split
  · exact pollPhase_plain hfs rfl rfl
  · exact pollPhase_nack hfs (.inr rfl)
  · exact pollPhase_plain hfs rfl rfl

/-- The data phase of a transaction of one constant byte. -/
theorem dataLoop_const_pollPhase (v : Byte) (s : State) (hb : b ≠ 0#32) :
    PollPhase [.tx v] s (dataLoop .write (.const v) 1 b 1 0 s) :=
  have hbyte : PollPhase [.tx v] s (dataByte .write (.const v) 1 0 b s) :=
    (dataTx_pollPhase v s hb).andThen_silent fun _ => ⟨rfl, rfl⟩
  hbyte.andThen_silent fun _ => ⟨rfl, rfl⟩

/-- The forced stop after a timed-out wait, its delay and the recheck's sample (R142). -/
def recheckEvents (f : Flags) : List Event := [.stop, .dly 2000, .smp f]

theorem unstarted_recheckEvents (f : Flags) : Unstarted [] (recheckEvents f) :=
  ⟨List.nil_prefix, rfl, le_rfl⟩

/-- WaitBusFree makes no start condition and transmits nothing; only a timeout forces a stop (R142). -/
theorem waitBusFree_follows (s : State) (hb : b ≠ 0#32) : Follows [] [] s (waitBusFree b s).2 := by
  obtain ⟨fs, hfs⟩ := poll_trace (s := s) (t := { s with estate := .waitFree }) .busFree false hb
    (List.append_nil _).symm
  have hfree : Unstarted [] (fs.map .smp ++ []) := (unstarted_exitEvents .ok []).after_samples fs
  have hrecheck {t : State} (ht : t.trace = s.trace ++ ([] ++ fs.map .smp)) :
      (recheck t).trace = s.trace ++ ([] ++ (fs.map .smp ++ recheckEvents (nextFlags t))) := by
    simp [recheck_eq, ht, recheckEvents]
  unfold waitBusFree
  dsimp only
  split
  · split
    · exact ⟨_, hrecheck hfs, (unstarted_recheckEvents _).after_samples fs⟩
    · exact ⟨_, hrecheck hfs, (unstarted_recheckEvents _).after_samples fs⟩
  · exact ⟨_, by rw [List.append_nil]; exact hfs, hfree⟩

theorem stopPhase_follows (s : State) : Follows [] [] s (stopPhase s) :=
  ⟨[.stop, .dly 2000], by simp [stopPhase, Config.tStopSettle], List.prefix_rfl, by simp [occurs], by simp [occurs]⟩

/-- The phases of a transaction of one constant byte after the wait for a free bus. -/
def startedPhases (a : BusAddr) (v : Byte) (b : Word) (s : State) : Code × State :=
  andThen (startPhase .write b s) fun s2 =>
  andThen (addressPhase a .write b s2) fun s3 =>
  andThen (dataLoop .write (.const v) 1 b 1 0 { s3 with estate := .data }) fun s4 =>
  (.ok, stopPhase s4)

theorem xactPhases_const_eq (a : BusAddr) (v : Byte) (b : Word) (s : State) :
    xactPhases .write a 1#8 b (.const v) s = andThen (waitBusFree b s) (startedPhases a v b) := rfl

theorem startedPhases_follows (a : BusAddr) (v : Byte) (s : State) (hb : b ≠ 0#32) :
    Follows [.start] [addressByte a .write, v] s (startedPhases a v b s).2 := by
  unfold startedPhases
  refine (startPhase_pollPhase s hb).andThen fun s2 => Follows.tx ?_
  refine (addressPhase_pollPhase a .write s2 hb).andThen fun s3 => Follows.tx ?_
  have hdata := dataLoop_const_pollPhase v { s3 with estate := .data } hb
  exact (hdata.andThen stopPhase_follows).of_trace_eq rfl

/-- The events of a transaction of the one constant byte `v` to `a`: it ends in the wait for a free bus, or makes its
one start condition after it. -/
inductive ConstXactEvents (a : BusAddr) (v : Byte) : List Event → Prop
  | stuck (es : List Event) (hes : Unstarted [] es) : ConstXactEvents a v es
  | started (es fs : List Event) (hes : Unstarted [] es) (hfs : Unstarted [addressByte a .write, v] fs) :
      ConstXactEvents a v (es ++ .start :: fs)

theorem xactPhases_const_events (a : BusAddr) (v : Byte) (s : State) (hb : b ≠ 0#32) :
    ∃ es, (xactPhases .write a 1#8 b (.const v) s).2.trace = s.trace ++ es ∧ ConstXactEvents a v es := by
  obtain ⟨es, hes, hun⟩ := waitBusFree_follows s hb
  rw [xactPhases_const_eq]
  by_cases hok : (waitBusFree b s).1 = .ok
  · obtain ⟨fs, hfs, hun'⟩ := startedPhases_follows a v (waitBusFree b s).2 hb
    rw [andThen_of_ok hok, hfs, hes]
    exact ⟨_, by simp, .started es fs hun hun'⟩
  · rw [andThen_of_ne hok]
    exact ⟨es, hes, .stuck es hun⟩

theorem xact_const_events (a : BusAddr) (v : Byte) (s : State) (hb : b ≠ 0#32) :
    ∃ es, (xact .write a 1#8 b (.const v) s).2.trace = s.trace ++ es ∧ ConstXactEvents a v es :=
  xactPhases_const_events a v (latchXact .write a 1#8 b (.const v) s) hb

end

/-- The bytes handed over for each start condition: none, or one with as many of the two bytes as it gets to. -/
theorem ConstXactEvents.groups {a : BusAddr} {v : Byte} {es : List Event} (h : ConstXactEvents a v es) :
    ∃ gs, txByStart es = ([], gs) ∧
      (gs = [] ∨ gs = [[]] ∨ gs = [[addressByte a .write]] ∨ gs = [[addressByte a .write, v]]) := by
  have hsilent {fs : List Event} (hfs : Unstarted [] fs) : txByStart fs = ([], []) := by
    rw [hfs.txByStart, List.prefix_nil.mp hfs.tx]
  cases h with
  | stuck es hes => exact ⟨[], hsilent hes, .inl rfl⟩
  | started es fs hes hfs =>
    refine ⟨[txBytes fs], ?_, ?_⟩
    · rw [txByStart_append es (.start :: fs) rfl, hsilent hes]
      simp [txByStart, hfs.txByStart]
    · obtain htx | ⟨bs, htx, hbs⟩ := List.prefix_cons_iff.mp hfs.tx
      · simp [htx]
      · obtain rfl | rfl : bs = [] ∨ bs = [v] := by simpa [List.prefix_cons_iff] using hbs
        · simp [htx]
        · simp [htx]

theorem ConstXactEvents.stops {a : BusAddr} {v : Byte} {es : List Event} (h : ConstXactEvents a v es) :
    occurs .stop es ≤ 2 := by
  cases h with
  | stuck es hes => exact hes.stops.trans (Nat.le_succ 1)
  | started es fs hes hfs =>
    rw [occurs_append, occurs_cons]
    exact Nat.add_le_add hes.stops hfs.stops

/-! ### Everything a transaction of one constant byte does -/

/-- What a transaction of the one constant byte `v` to `a` from `s` can have changed when it leaves `t`. -/
def constXactFrom (a : BusAddr) (v : Byte) (b : Word) (s t : State) : State :=
  { s with
    estate := t.estate, xdir := .write, xaddr := a, xlen := 1#8, xb := b, xsel := .const v, xidx := t.xidx,
    cnt := t.cnt, xcode := t.xcode, trace := t.trace, flagsIn := t.flagsIn, nSmp := t.nSmp }

/-- A transaction of the one constant byte `v` to `a` leads from `s` to `t`; `es` are its events. -/
structure ConstXact (a : BusAddr) (v : Byte) (b : Word) (s t : State) (es : List Event) : Prop where
  trace    : t.trace = s.trace ++ es
  nSmp     : t.nSmp = s.nSmp + samples es
  frame    : t = constXactFrom a v b s t
  estate   : t.estate = .done ∨ t.estate = .failed
  events   : ConstXactEvents a v es
  received : rxBytes es = []
  bus      : ∀ e ∈ es, isBusEvent e = true
  samples  : samples es ≤ 4 * b.toNat + 1

/-- A write transaction receives nothing, and over a constant it stores nothing. -/
theorem constXactFrom_of_quiet {a : BusAddr} {v : Byte} {b : Word} {s t : State} {es : List Event}
    (hframe : t = xactFrom .write a 1#8 b (.const v) s t) (hq : Quiet s.ackpol s t) (hes : Makes (.const v) es s t)
    (hrx : rxBytes es = []) : t = constXactFrom a v b s t := by
  have hrxIn : t.rxIn = s.rxIn := by rw [hes.rxIn, hrx]; rfl
  have hnRx : t.nRx = s.nRx := by rw [hes.nRx, hrx]; rfl
  rw [xactFrom, hq.ackpol, hq.pay, hrxIn, hnRx] at hframe
  conv_lhs => rw [hframe]
  rfl

theorem xact_constXact (a : BusAddr) (v : Byte) {b : Word} (s : State) (hb : b ≠ 0#32) :
    ∃ es, ConstXact a v b s (xact .write a 1#8 b (.const v) s).2 es := by
  obtain ⟨es, hes, ⟨hsamples, -⟩, ho⟩ := xact_run (l := 1#8) (sel := .const v) .write a s (by decide) hb
  obtain ⟨⟨es', hes', hbus⟩, -⟩ := xact_onBus (sel := .const v) .write a 1#8 b s
  obtain ⟨es'', hes'', hevents⟩ := xact_const_events a v s hb
  obtain rfl : es = es' := List.append_cancel_left (hes.trace.symm.trans hes')
  obtain rfl : es = es'' := List.append_cancel_left (hes.trace.symm.trans hes'')
  have hq := xact_write_quiet a 1#8 b (.const v) s
  have hrx : rxBytes es = [] := hq.received.rxBytes hes
  have hframe := constXactFrom_of_quiet (xact_frame (sel := .const v) .write a 1#8 b nofun s) hq hes hrx
  refine ⟨es, hes.trace, hes.nSmp, hframe, ?_, hevents, hrx, hbus, hsamples⟩
  obtain ⟨-, he, -⟩ | ⟨-, he, -⟩ := ho.finished (by decide)
  · exact .inl he
  · exact .inr he

end Sys2Proof.Proofs
end

section
/-! ## Proofs: the scan file, probe by probe (R39, R40, R190)

A probe sets the PRESENT bit of its own address and counts it when its transaction returns Ok; it touches no other
bit. -/

open Sys2Proof Sys2Proof.Machine Sys2Proof.Safety

namespace Sys2Proof.Proofs

theorem notePresent_present (c : Code) (s : State) (k : Nat) :
    (notePresent c s).present.getLsbD k = (s.present.getLsbD k || decide (c = .ok ∧ k = s.saddr.toNat)) := by
  by_cases hc : c = .ok
  · subst hc
    have hbit : (1#128 <<< s.saddr.toNat).getLsbD k = decide (k = s.saddr.toNat) := by
      have hlt := s.saddr.isLt
      rw [BitVec.getLsbD_shiftLeft, BitVec.getLsbD_one]
      grind
    simp [notePresent, hbit]
  · simp [notePresent_failed c s hc, hc]

theorem notePresent_count (c : Code) (s : State) :
    (notePresent c s).count = if c = .ok then s.count + 1#7 else s.count := by
  cases c <;> rfl

section

variable {a k n : Nat} {s : State}

theorem probeXact_saddr (ha : a < 128) : (probeXact a s).2.saddr.toNat = a := by
  have hsaddr : (probeXact a s).2.saddr = BitVec.ofNat 7 a := xact_saddr _ _ _ _ _ _
  rw [hsaddr, BitVec.toNat_ofNat, Nat.mod_eq_of_lt ha]

theorem probe_present (ha : a < 128) (s : State) (k : Nat) :
    (probe a s).present.getLsbD k = (s.present.getLsbD k || decide ((probeXact a s).1 = .ok ∧ k = a)) := by
  have hpresent : (probeXact a s).2.present = s.present := (xactPhases_engine _ _ _ _ _ _).present
  rw [probe_eq, notePresent_present, probeXact_saddr ha, hpresent]

theorem probe_count (a : Nat) (s : State) :
    (probe a s).count = if (probeXact a s).1 = .ok then s.count + 1#7 else s.count := by
  have hcount : (probeXact a s).2.count = s.count := (xactPhases_engine _ _ _ _ _ _).count
  rw [probe_eq, notePresent_count, hcount]

theorem probe_opShort (a : Nat) (s : State) : (probe a s).opShort = s.opShort := by
  obtain ⟨present, count, h⟩ := notePresent_frame (probeXact a s).1 (probeXact a s).2
  rw [probe_eq, h]
  exact xact_opShort _ _ _ _ _ _

theorem scanLoop_opShort (n a : Nat) (s : State) : (scanLoop n a s).opShort = s.opShort := by
  induction n generalizing a s with
  | zero => rfl
  | succ n ih => exact (ih (a + 1) (probe a s)).trans (probe_opShort a s)

theorem scanLoop_append (n m a : Nat) (s : State) : scanLoop (n + m) a s = scanLoop m (a + n) (scanLoop n a s) := by
  induction n generalizing a s with
  | zero => simp [scanLoop]
  | succ n ih => rw [Nat.succ_add, scanLoop, ih, Nat.succ_add_eq_add_succ, scanLoop]

/-- The probes of other addresses leave PRESENT[k] alone. -/
theorem scanLoop_present_other (h : k < a ∨ a + n ≤ k) (hn : a + n ≤ 128) (s : State) :
    (scanLoop n a s).present.getLsbD k = s.present.getLsbD k := by
  induction n generalizing a s with
  | zero => rfl
  | succ n ih =>
    rw [scanLoop, ih (by omega) (by omega), probe_present (by omega)]
    simp [show k ≠ a by omega]

/-- COUNT is the number of addresses present, all of them at least 1 and below `a`. -/
structure Counted (a : Nat) (s : State) : Prop where
  count : s.count.toNat = (List.range 128).countP fun k => s.present.getLsbD k
  lt    : s.count.toNat < a
  range : ∀ k, s.present.getLsbD k = true → 1 ≤ k ∧ k < a

theorem counted_clearScan (s : State) : Counted 1 (clearScan s) := by
  refine ⟨?_, by simp [clearScan], fun k hk => by simp [clearScan] at hk⟩
  simp [clearScan]

/-- One more element of a range. -/
theorem countP_range_or_eq {p : Nat → Bool} (ha : a < n) (hp : p a = false) :
    (List.range n).countP (fun k => p k || decide (k = a)) = (List.range n).countP p + 1 := by
  induction n with
  | zero => omega
  | succ n ih =>
    rw [List.range_succ, List.countP_append, List.countP_append]
    by_cases h : a = n
    · subst h
      have hrest : (List.range a).countP (fun k => p k || decide (k = a)) = (List.range a).countP p :=
        List.countP_congr fun k hk => by simp [(List.mem_range.mp hk).ne]
      simp [hrest, hp]
    · have hlast : (p n || decide (n = a)) = p n := by simp [Ne.symm h]
      rw [ih (by omega)]
      simp only [List.countP_singleton, hlast]
      omega

theorem Counted.probe (h : Counted a s) (ha : 1 ≤ a) (ha' : a < 128) : Counted (a + 1) (probe a s) := by
  obtain ⟨hcount, hlt, hrange⟩ := h
  have hnew : s.present.getLsbD a = false := Bool.eq_false_iff.mpr fun hk => by simpa using (hrange a hk).2
  by_cases hok : (probeXact a s).1 = .ok
  · have hpresent (k : Nat) : (Machine.probe a s).present.getLsbD k = (s.present.getLsbD k || decide (k = a)) := by
      simp [probe_present ha', hok]
    have hnext : (Machine.probe a s).count.toNat = s.count.toNat + 1 := by
      rw [probe_count, if_pos hok]
      bv_omega
    refine ⟨?_, by omega, fun k hk => ?_⟩
    · simp only [hpresent]
      rw [hnext, hcount, countP_range_or_eq ha' hnew]
    · rw [hpresent] at hk
      obtain hk | hk := Bool.or_eq_true_iff.mp hk
      · have hk' := hrange k hk
        omega
      · obtain rfl := of_decide_eq_true hk
        omega
  · have hpresent (k : Nat) : (Machine.probe a s).present.getLsbD k = s.present.getLsbD k := by
      simp [probe_present ha', hok]
    have hsame : (Machine.probe a s).count = s.count := by rw [probe_count, if_neg hok]
    refine ⟨by simp only [hpresent, hsame, hcount], by rw [hsame]; omega, fun k hk => ?_⟩
    have hk' := hrange k (hpresent k ▸ hk)
    omega

theorem Counted.scanLoop (h : Counted a s) (ha : 1 ≤ a) (hn : a + n ≤ 128) : Counted (a + n) (scanLoop n a s) := by
  induction n generalizing a s with
  | zero => exact h
  | succ n ih =>
    rw [Nat.add_succ, ← Nat.succ_add]
    exact ih (h.probe ha (by omega)) (by omega) (by omega)

end

theorem runScan_eq (s : State) : runScan s = (okResult, scanLoop 126 1 (clearScan s)) := rfl

/-- Settles O42: PRESENT[a] is clear until the probe of `a`, and no later probe touches it. -/
theorem presentMeansTheProbeSucceeded : Obligations.PresentMeansTheProbeSucceeded := by
  intro s a ha ha' before x
  have hbudget : before.opShort = s.opShort := scanLoop_opShort _ _ _
  have hx : x = probeXact a before := by simp only [x, probeXact, hbudget]; rfl
  have hsplit : scanLoop 126 1 (clearScan s) = scanLoop (0x7E - a) (a + 1) (probe a before) := by
    have hbefore := scanLoop_append (a - 1) (0x7E - a + 1) 1 (clearScan s)
    rwa [show a - 1 + (0x7E - a + 1) = 126 by omega, show 1 + (a - 1) = a by omega] at hbefore
  have hclear : before.present.getLsbD a = false := by
    rw [scanLoop_present_other (.inr (by omega)) (by omega)]
    simp [clearScan]
  rw [runScan_eq, hx, hsplit]
  refine ⟨?_, by rw [probe_eq]⟩
  rw [scanLoop_present_other (.inl (by omega)) (by omega), probe_present (by omega), hclear]
  simp

end Sys2Proof.Proofs
end

section
/-! ## Proofs: completion, frame and events of SCAN (R190 to R192)

A scan is one probe after another. `ScanRun` gathers what is known of the probes of some addresses, in a form that adds
up; the two statements read it off the probes of 1 to 0x7E. -/

open Sys2Proof Sys2Proof.Machine Sys2Proof.Safety

namespace Sys2Proof.Proofs

/-! ### The events of probes -/

/-- `es` are the events of probes with a budget of `b` samples, whose address bytes are `ks`, in order. -/
structure ProbeEvents (b : Nat) (ks : List Byte) (es : List Event) : Prop where
  silent   : (txByStart es).1 = []
  heads    : ((txByStart es).2.filterMap List.head?).Sublist ks
  tails    : ∀ bs, bs ∈ (txByStart es).2 → bs.tail = [] ∨ bs.tail = [0x00#8]
  received : rxBytes es = []
  pins     : pinEvents es = 0
  stops    : occurs .stop es ≤ 2 * ks.length
  starts   : occurs .start es ≤ ks.length
  samples  : samples es ≤ ks.length * (4 * b + 1)

theorem ProbeEvents.append {b : Nat} {ks ks' : List Byte} {es fs : List Event} (h : ProbeEvents b ks es)
    (h' : ProbeEvents b ks' fs) : ProbeEvents b (ks ++ ks') (es ++ fs) := by
  have happend := txByStart_append es fs h'.silent
  refine ⟨by rw [happend]; exact h.silent, ?_, fun bs hbs => ?_, ?_, ?_, ?_, ?_, ?_⟩
  · rw [happend, List.filterMap_append]
    exact h.heads.append h'.heads
  · rw [happend] at hbs
    exact (List.mem_append.mp hbs).elim (h.tails bs) (h'.tails bs)
  · rw [rxBytes_append, h.received, h'.received, List.append_nil]
  · rw [pinEvents_append, h.pins, h'.pins]
  · rw [occurs_append, List.length_append, Nat.mul_add]
    exact Nat.add_le_add h.stops h'.stops
  · rw [occurs_append, List.length_append]
    exact Nat.add_le_add h.starts h'.starts
  · rw [samples_append, List.length_append, Nat.add_mul]
    exact Nat.add_le_add h.samples h'.samples

theorem ConstXactEvents.probeEvents {a : BusAddr} {b : Nat} {es : List Event} (h : ConstXactEvents a 0x00#8 es)
    (hrx : rxBytes es = []) (hpins : pinEvents es = 0) (hsamples : samples es ≤ 4 * b + 1) :
    ProbeEvents b [addressByte a .write] es := by
  obtain ⟨gs, hgs, hcases⟩ := h.groups
  have hcount : samples es ≤ [addressByte a .write].length * (4 * b + 1) := by simpa using hsamples
  refine ⟨by rw [hgs], ?_, ?_, hrx, hpins, h.stops, ?_, hcount⟩
  · rw [hgs]
    obtain rfl | rfl | rfl | rfl := hcases <;> simp
  · rw [hgs]
    obtain rfl | rfl | rfl | rfl := hcases <;> simp
  · rw [← txByStart_length, hgs]
    obtain rfl | rfl | rfl | rfl := hcases <;> simp

/-! ### A run of probes -/

/-- What probes from `s`, the last of them of address `a`, can have changed when they leave `t`: the registers named. -/
def probedFrom (a : Nat) (s t : State) : State :=
  { s with
    present := t.present, count := t.count, saddr := BitVec.ofNat 7 a, estate := t.estate, xdir := .write,
    xaddr := BitVec.ofNat 7 a, xlen := 1#8, xb := s.opShort, xsel := .const 0x00#8, xidx := t.xidx, cnt := t.cnt,
    xcode := t.xcode, trace := t.trace, flagsIn := t.flagsIn, nSmp := t.nSmp }

/-- From `s` to `t` the block probes addresses whose address bytes are `ks`, the last of them address `a`; `es` are the
events. -/
structure ScanRun (ks : List Byte) (a : Nat) (s t : State) (es : List Event) : Prop where
  trace  : t.trace = s.trace ++ es
  nSmp   : t.nSmp = s.nSmp + samples es
  events : ProbeEvents s.opShort.toNat ks es
  frame  : t = probedFrom a s t
  estate : t.estate = .done ∨ t.estate = .failed

theorem ScanRun.trans {ks ks' : List Byte} {a a' : Nat} {s t u : State} {es fs : List Event} (h : ScanRun ks a s t es)
    (h' : ScanRun ks' a' t u fs) : ScanRun (ks ++ ks') a' s u (es ++ fs) where
  trace := by rw [h'.trace, h.trace, List.append_assoc]
  nSmp := by rw [h'.nSmp, h.nSmp, samples_append, Nat.add_assoc]
  events := by
    have hbudget : t.opShort = s.opShort := by rw [h.frame]; rfl
    exact h.events.append (hbudget ▸ h'.events)
  frame := by
    conv_lhs => rw [h'.frame, h.frame]
    rfl
  estate := h'.estate

/-- The address byte of a probe (R108). -/
def probeByte (a : Nat) : Byte := addressByte (BitVec.ofNat 7 a) .write

theorem probeByte_eq (a : Nat) : probeByte a = BitVec.ofNat 8 (2 * a) := by
  refine BitVec.eq_of_toNat_eq ?_
  simp [probeByte, addressByte, dirBit, Nat.shiftLeft_eq]
  omega

theorem probe_run (a : Nat) {s : State} (hb : s.opShort ≠ 0#32) :
    ∃ es, ScanRun [probeByte a] a s (probe a s) es := by
  obtain ⟨es, hes⟩ := xact_constXact (BitVec.ofNat 7 a) Config.scanProbe { s with saddr := BitVec.ofNat 7 a } hb
  change ConstXact _ _ _ _ (probeXact a s).2 es at hes
  obtain ⟨present, count, hnote⟩ := notePresent_frame (probeXact a s).1 (probeXact a s).2
  rw [probe_eq, hnote]
  refine ⟨es, hes.trace, hes.nSmp, hes.events.probeEvents hes.received (pinEvents_of_onBus hes.bus) hes.samples, ?_,
    hes.estate⟩
  conv_lhs => rw [hes.frame]
  rfl

theorem scanLoop_run (n a : Nat) {s : State} (hb : s.opShort ≠ 0#32) :
    ∃ es, ScanRun ((List.range' a (n + 1)).map probeByte) (a + n) s (scanLoop (n + 1) a s) es := by
  induction n generalizing a s with
  | zero => exact probe_run a hb
  | succ n ih =>
    obtain ⟨es, hes⟩ := probe_run a hb
    obtain ⟨fs, hfs⟩ := ih (a + 1) (s := probe a s) (by rwa [probe_opShort])
    rw [Nat.add_right_comm, Nat.add_assoc] at hfs
    exact ⟨es ++ fs, hes.trans hfs⟩

/-! ### The command -/

/-- A SCAN accepted in `s` at its first probe (R190, R197). -/
def scanStart (s : State) : State := clearScan (acceptCommand .scan (takeWord (encode .scan) s))

theorem exec_scan {s : State} (h : Accepts .scan s) :
    exec .scan s = .next (complete okResult (scanLoop 126 1 (scanStart s))) := by
  have hrun (v : State) : operation .scan v = (okResult, scanLoop 126 1 (clearScan v)) := runScan_eq v
  rw [exec_accepted h, hrun, scanStart]

/-- An accepted SCAN, with a name for what its probes leave and for its events. -/
theorem exec_scan_run {s : State} (h : Accepts .scan s) :
    ∃ t es, exec .scan s = .next (complete okResult t) ∧
      ScanRun ((List.range' 1 126).map probeByte) 0x7E (scanStart s) t es ∧ Counted 127 t ∧
      (complete okResult t).trace = s.trace ++ [Event.cmd 0x50000000#32] ++ es ++ [Event.ret okResult] := by
  have hb : s.tbShort ≠ 0#32 := by simpa [operandsLegal, budgetLegal, Config.hasScan] using h.2.2
  obtain ⟨es, hrun⟩ := scanLoop_run 125 1 (s := scanStart s) hb
  have hcounted := (counted_clearScan (acceptCommand .scan (takeWord (encode .scan) s))).scanLoop (n := 126) le_rfl
    (by decide)
  exact ⟨_, es, exec_scan h, hrun, hcounted, by rw [complete_trace, hrun.trace]; rfl⟩

/-- Settles O41: every probe writes the scan file, its latches and its samples only, and COUNT goes up with each address
that becomes present. -/
theorem scanCompletes : Obligations.ScanCompletes := by
  intro s hs
  obtain ⟨t, es, hexec, hrun, hcounted, htrace⟩ := exec_scan_run hs
  have hidle : s.busy = false := hs.1
  have habsent (k : Nat) (hk : ¬ (1 ≤ k ∧ k < 127)) : t.present.getLsbD k = false :=
    Bool.eq_false_iff.mpr fun h => hk (hcounted.range k h)
  refine ⟨_, es, hexec, ?_, fun i => ?_, hcounted.count, habsent 0 (by decide), habsent 0x7F (by decide), hrun.estate⟩
  · have hret : [Event.ret ⟨.ok, .none, 0#8⟩] = [.ret okResult] := rfl
    rw [hret, ← htrace, hidle]
    conv_lhs => rw [complete_eq, hrun.frame]
    rfl
  · rw [bufByte, complete_buf, complete_epoch, hrun.frame]
    rfl

/-- Settles O43: a scan is the probes of 1 to 0x7E, each of which makes at most one start condition and hands over its
address byte and the byte 0x00 as far as it gets. -/
theorem scanProbesValidAddressesOnly : Obligations.ScanProbesValidAddressesOnly := by
  intro s hs
  obtain ⟨t, es, hexec, hrun, -, htrace⟩ := exec_scan_run hs
  have hevents : ProbeEvents s.tbShort.toNat ((List.range' 1 126).map probeByte) es := hrun.events
  have hsmp : (complete okResult t).nSmp = s.nSmp + samples es := hrun.nSmp
  have hbytes : (List.range' 1 126).map probeByte = (List.range 126).map fun k => BitVec.ofNat 8 (2 * (k + 1)) := by
    rw [List.range'_eq_map_range, List.map_map]
    exact List.map_congr_left fun k _ => by rw [Function.comp_apply, probeByte_eq, Nat.add_comm]
  obtain ⟨hsilent, hheads, htails, hrx, hpins, hstops, hstarts, hsamples⟩ := hevents
  have hlength : ((List.range' 1 126).map probeByte).length = 126 := by simp
  rw [hlength] at hstops hstarts hsamples
  exact ⟨_, es, hexec, htrace, hsilent, hbytes ▸ hheads, htails, hrx, hpins, hstops, hstarts, by omega, by omega⟩

end Sys2Proof.Proofs
end

section
/-! ## Proofs: the HOST's reads and writes (R195 to R199)

What a write of a register other than CMD stores and what a read then shows, once per register; what CMD_OVR is after
each input; and the accept of a command by a HOST that polls. -/

open Sys2Proof Sys2Proof.Machine Sys2Proof.Safety

namespace Sys2Proof.Proofs

/-! ### Offsets (R26, R42, R78) -/

theorem aligned_iff {off : Offset} : aligned off = true ↔ off.toNat % 4 = 0 := by simp [aligned]

theorem bufIndex_eq_none_iff {off : Offset} : bufIndex off = none ↔ ¬ (0x100 ≤ off.toNat ∧ off.toNat < 0x180) := by
  rw [bufIndex, ite_eq_right_iff]
  simp [Config.bufSize]

/-- The offsets of BUF are those of its bytes. -/
theorem eq_offBuf_of_bufIndex {off : Offset} {i : Nat} (ha : off.toNat % 4 = 0) (h : bufIndex off = some i) :
    i < Config.bufSize ∧ off = offBuf i := by
  have hsize : Config.bufSize = 32 := rfl
  unfold bufIndex at h
  split at h
  · obtain rfl : (off.toNat - 0x100) / 4 = i := by simpa using h
    have hi : (off.toNat - 0x100) / 4 < Config.bufSize := by omega
    exact ⟨hi, BitVec.eq_of_toNat_eq (by rw [offBuf_toNat hi]; omega)⟩
  · cases h

theorem aligned_offBuf {i : Nat} (hi : i < Config.bufSize) : aligned (offBuf i) = true := by
  rw [aligned_iff, offBuf_toNat hi]
  omega

theorem offBuf_ne {off : Offset} (h : bufIndex off = none) {i : Nat} (hi : i < Config.bufSize) : offBuf i ≠ off := by
  rintro rfl
  rw [bufIndex_offBuf hi] at h
  cases h

/-- A register's offset is that of BUF or stands no higher than PINS. -/
theorem isRegister_eq_false_iff {off : Offset} : isRegister off = false ↔ 0x044 < off.toNat ∧ bufIndex off = none := by
  simp [isRegister]

/-! ### What a write stores (R196, R199) -/

theorem hwr_eq_hostWrite {off : Offset} (ha : aligned off = true) (hne : off ≠ offCmd) (v : Word) (s : State) :
    hwr off v s = .next (hostWrite off v s) := by
  rw [hwr, if_pos ha, if_neg hne]

theorem hostWrite_busy {s : State} (h : s.busy = true) (off : Offset) (v : Word) : hostWrite off v s = s := by
  simp [hostWrite, h]

theorem hostWrite_tbudget {s : State} (h : s.busy = false) (v : Word) :
    hostWrite offTbudget v s = { s with tbudget := v } := by
  simp [hostWrite, h]

theorem hostWrite_tbShort {s : State} (h : s.busy = false) (v : Word) :
    hostWrite offTbShort v s = { s with tbShort := v } := by
  simp [hostWrite, h, offTbShort, offTbudget]

theorem hostWrite_tbLong {s : State} (h : s.busy = false) (v : Word) :
    hostWrite offTbLong v s = { s with tbLong := v } := by
  simp [hostWrite, h, offTbLong, offTbShort, offTbudget]

theorem hostWrite_offBuf {s : State} (h : s.busy = false) {i : Nat} (hi : i < Config.bufSize) (v : Word) :
    hostWrite (offBuf i) v s = bufStore i (v.setWidth 8) s := by
  have hbudget : offBuf i ≠ offTbudget := offBuf_ne rfl hi
  have hshort : offBuf i ≠ offTbShort := offBuf_ne rfl hi
  have hlong : offBuf i ≠ offTbLong := offBuf_ne rfl hi
  rw [hostWrite, if_neg (by simp [h]), if_neg hbudget, if_neg hshort, if_neg hlong, bufIndex_offBuf hi]

theorem hostWrite_unwritable {off : Offset} (h : ¬ writableOffset off) (v : Word) (s : State) :
    hostWrite off v s = s := by
  obtain ⟨hbudget, hshort, hlong, hbuf⟩ :
      off ≠ offTbudget ∧ off ≠ offTbShort ∧ off ≠ offTbLong ∧ ¬ (0x100 ≤ off.toNat ∧ off.toNat < 0x180) := by
    simpa only [writableOffset, not_or] using h
  rw [hostWrite, if_neg hbudget, if_neg hshort, if_neg hlong, bufIndex_eq_none_iff.mpr hbuf]
  exact ite_self s

/-- Every aligned write while BUSY = 0: to a budget, to a byte of BUF, or to nothing. -/
theorem hostWrite_cases {off : Offset} (ha : off.toNat % 4 = 0) {s : State} (hb : s.busy = false) (v : Word) :
    (off = offTbudget ∧ hostWrite off v s = { s with tbudget := v }) ∨
    (off = offTbShort ∧ hostWrite off v s = { s with tbShort := v }) ∨
    (off = offTbLong ∧ hostWrite off v s = { s with tbLong := v }) ∨
    (∃ i, off = offBuf i ∧ hostWrite off v s = bufStore i (v.setWidth 8) s) ∨
    hostWrite off v s = s := by
  by_cases hw : writableOffset off
  · obtain rfl | rfl | rfl | hbuf := hw
    · exact .inl ⟨rfl, hostWrite_tbudget hb v⟩
    · exact .inr (.inl ⟨rfl, hostWrite_tbShort hb v⟩)
    · exact .inr (.inr (.inl ⟨rfl, hostWrite_tbLong hb v⟩))
    · obtain ⟨i, hindex⟩ := Option.ne_none_iff_exists'.mp fun hn => bufIndex_eq_none_iff.mp hn hbuf
      obtain ⟨hi, rfl⟩ := eq_offBuf_of_bufIndex ha hindex
      exact .inr (.inr (.inr (.inl ⟨i, rfl, hostWrite_offBuf hb hi v⟩)))
  · exact .inr (.inr (.inr (.inr (hostWrite_unwritable hw v s))))

/-- Settles O11: an offset that is not writable is none of those `hostWrite` looks for. -/
theorem readOnlyWriteIsIgnored : Obligations.ReadOnlyWriteIsIgnored := by
  intro off v s ha hne hw
  rw [hwr_eq_hostWrite (aligned_iff.mpr ha) hne, hostWrite_unwritable hw]

/-! ### What a read shows (R195, R199) -/

theorem hostValue_idle {s : State} (h : s.busy = false) (off : Offset) :
    hostValue off s = registerValue (Config.freeWord s.draws) off s := by
  simp [hostValue, h]

theorem registerValue_reserved {off : Offset} (h : isRegister off = false) (free : Word) (s : State) :
    registerValue free off s = 0#32 := by
  obtain ⟨hhigh, hbuf⟩ := isRegister_eq_false_iff.mp h
  have hne (x : Offset) (hx : x.toNat ≤ 0x044) : ¬ off = x := fun he => by
    rw [he] at hhigh
    omega
  simp (disch := decide) only [registerValue, hne, if_false]
  rw [hbuf]

/-- Settles O13: a read is `hostRead`, and what it shows while BUSY = 0 is the register. -/
theorem hostReadChangesNothing : Obligations.HostReadChangesNothing := by
  intro off s ha
  refine ⟨if_pos (aligned_iff.mpr ha), fun hb => hostValue_idle hb off, fun hb hreserved => ?_⟩
  rw [hostValue_idle hb, registerValue_reserved hreserved]

theorem hostValue_status_busy {s : State} (h : s.busy = true) :
    hostValue offStatus s = busyStatusWord (Config.freeWord s.draws) := by
  simp [hostValue, h]

theorem hostValue_register_busy {s : State} (h : s.busy = true) {off : Offset} (hr : isRegister off = true)
    (hne : off ≠ offStatus) : hostValue off s = Config.freeWord s.draws := by
  simp [hostValue, h, hne, hr]

theorem busyStatusWord_bit (free : Word) (k : Nat) :
    (busyStatusWord free).getLsbD k = if k = 0 then true else if k = 1 then false else free.getLsbD k := by
  by_cases hk : k < 32
  · simp only [busyStatusWord, BitVec.getLsbD_or, BitVec.getLsbD_and]
    interval_cases k <;> simp
  · rw [BitVec.getLsbD_of_ge _ k (by omega), BitVec.getLsbD_of_ge _ k (by omega), if_neg (by omega), if_neg (by omega)]

/-- Settles O12: while BUSY = 1 a write of any register but CMD stores nothing, and a read is the free value but for the
two bits of STATUS. -/
theorem busyBlockIgnoresAccesses : Obligations.BusyBlockIgnoresAccesses := by
  intro s hb
  refine ⟨fun off v ha hne => ?_, ?_, fun off hr hne => hostValue_register_busy hb hr hne⟩
  · rw [hwr_eq_hostWrite (aligned_iff.mpr ha) hne, hostWrite_busy hb]
  · rw [hostValue_status_busy hb]
    refine ⟨busyStatusWord_bit _ 0, busyStatusWord_bit _ 1, fun k hk => ?_⟩
    rw [busyStatusWord_bit, if_neg (by omega), if_neg (by omega)]

/-! ### A read after a write (R196, R83) -/

section
variable (free : Word) {off : Offset} (v : Word) (s : State)

theorem registerValue_setTbudget (h : off ≠ offTbudget) :
    registerValue free off { s with tbudget := v } = registerValue free off s := by
  simp only [registerValue, if_neg h]
  rfl

theorem registerValue_setTbShort (h : off ≠ offTbShort) :
    registerValue free off { s with tbShort := v } = registerValue free off s := by
  simp only [registerValue, if_neg h]
  rfl

theorem registerValue_setTbLong (h : off ≠ offTbLong) :
    registerValue free off { s with tbLong := v } = registerValue free off s := by
  simp only [registerValue, if_neg h]
  rfl

theorem registerValue_bufStore_other (ha : off.toNat % 4 = 0) {i : Nat} (h : off ≠ offBuf i) (b : Byte) :
    registerValue free off (bufStore i b s) = registerValue free off s := by
  cases hindex : bufIndex off with
  | none =>
    rw [bufStore_frame]
    simp only [registerValue, hindex]
    rfl
  | some j =>
    obtain ⟨hj, rfl⟩ := eq_offBuf_of_bufIndex ha hindex
    have hne : j ≠ i := fun he => h (congrArg offBuf he)
    rw [registerValue_offBuf free _ hj, registerValue_offBuf free _ hj, bufByte_bufStore_other i j b s hne]

theorem registerValue_hostWrite_other {off' : Offset} (ha : off.toNat % 4 = 0) (ha' : off'.toNat % 4 = 0)
    (hne : off ≠ off') (hb : s.busy = false) :
    registerValue free off' (hostWrite off v s) = registerValue free off' s := by
  obtain ⟨rfl, h⟩ | ⟨rfl, h⟩ | ⟨rfl, h⟩ | ⟨i, rfl, h⟩ | h := hostWrite_cases ha hb v <;> rw [h]
  · exact registerValue_setTbudget free v s hne.symm
  · exact registerValue_setTbShort free v s hne.symm
  · exact registerValue_setTbLong free v s hne.symm
  · exact registerValue_bufStore_other free s ha' hne.symm _

theorem hostWrite_changes_budgets_and_buf (off : Offset) :
    hostWrite off v s =
      { s with
        tbudget := (hostWrite off v s).tbudget, tbShort := (hostWrite off v s).tbShort,
        tbLong := (hostWrite off v s).tbLong, buf := (hostWrite off v s).buf } := by
  obtain h | ⟨i, h⟩ := hostWrite_frame off v s <;> rw [h]
  rw [bufStore_frame]

end

theorem fieldAt_lowByte (v : Word) : fieldAt 0 (v.setWidth 8) = v &&& 0xFF#32 := by
  refine BitVec.eq_of_toNat_eq ?_
  rw [fieldAt_zero_toNat _ (by decide), BitVec.toNat_setWidth, BitVec.toNat_and]
  exact (Nat.and_two_pow_sub_one_eq_mod v.toNat 8).symm

/-- Settles O10: each write stores into the register its offset names, which shows it; every other register is read
from what the write leaves alone. -/
theorem writtenRegisterReadsBack : Obligations.WrittenRegisterReadsBack := by
  intro v free s hb
  refine ⟨?tbudget, ?tbShort, ?tbLong, ?buf, fun off ha hne => hwr_eq_hostWrite ha hne v s, hostValue_idle hb,
    congrArg State.tbudget (hostWrite_tbudget hb v), congrArg State.tbShort (hostWrite_tbShort hb v),
    congrArg State.tbLong (hostWrite_tbLong hb v), ?readBuf, fun off off' ha ha' hne => ?other,
    hostWrite_changes_budgets_and_buf v s⟩
  case tbudget => rw [hwr_eq_hostWrite rfl (by decide), hostWrite_tbudget hb]
  case tbShort => rw [hwr_eq_hostWrite rfl (by decide), hostWrite_tbShort hb]
  case tbLong => rw [hwr_eq_hostWrite rfl (by decide), hostWrite_tbLong hb]
  case buf =>
    intro i hi
    refine ⟨bufStore i (v.setWidth 8) s, ?_, bufStore_frame i _ s, ?_, fun j => bufByte_bufStore_other i j _ s⟩
    · rw [hwr_eq_hostWrite (aligned_offBuf hi) (offBuf_ne rfl hi), hostWrite_offBuf hb hi]
    · rw [bufByte_bufStore_same i _ s hi, BitVec.setWidth_eq_extractLsb' (by decide)]
  case readBuf =>
    intro i hi
    rw [hostWrite_offBuf hb hi, registerValue_offBuf free _ hi, bufByte_bufStore_same i _ s hi, fieldAt_lowByte]
  case other => exact registerValue_hostWrite_other free v s (aligned_iff.mp ha) (aligned_iff.mp ha') hne hb

/-! ### CMD_OVR (R198) -/

theorem cmdWrite_busy {s : State} (h : s.busy = true) (w : Word) : cmdWrite w s = .next (overrun s) := by
  cases hw : decode w with
  | ok i => rw [cmdWrite_decoded hw, exec_eq_command, command_busy _ _ _ s h]
  | error e => simp [cmdWrite, cmdIllegal, hw, h]

theorem coreStep_cmdOvr {s t : State} (h : coreStep s = .next t) : t.cmdOvr = s.cmdOvr := by
  obtain ⟨e, -, -, ho⟩ | ⟨r, -, ho⟩ := primitive_of_coreStep h <;> exact congrArg Outline.cmdOvr ho

theorem coreTurn_cmdOvr {s t : State} (h : coreTurn s = .next t) : t.cmdOvr = s.cmdOvr :=
  coreTurn_keeps (P := fun v => v.cmdOvr = s.cmdOvr) (fun _ _ _ hstep hs => (coreStep_cmdOvr hstep).trans hs) h rfl

theorem hostWrite_cmdOvr (off : Offset) (v : Word) (s : State) : (hostWrite off v s).cmdOvr = s.cmdOvr := by
  rw [hostWrite_changes_budgets_and_buf]

theorem hrd_cmdOvr {off : Offset} {s t : State} (h : hrd off s = .next t) : t.cmdOvr = s.cmdOvr := by
  unfold hrd at h
  split at h
  · injection h with h
    rw [← h]
    rfl
  · cases h

/-- A write keeps CMD_OVR = 1 unless it is one to CMD that is taken. -/
theorem hwr_keepsOverrun {off : Offset} {v : Word} {s t : State} (h : hwr off v s = .next t) (hs : s.cmdOvr = true)
    (hcmd : off = offCmd → s.busy = true) : t.cmdOvr = true := by
  unfold hwr at h
  split at h
  · split at h
    · rw [cmdWrite_busy (hcmd ‹_›)] at h
      injection h with h
      rw [← h]
      rfl
    · injection h with h
      rw [← h, hostWrite_cmdOvr, hs]
  · cases h

theorem input_keepsOverrun {x : Input} {rest : List Input} {s t : State} (h : input x rest s = .next t)
    (hs : s.cmdOvr = true) (hcmd : ∀ w, x = .hwr offCmd w → s.busy = true) (hrst : x ≠ .rst) : t.cmdOvr = true := by
  cases x with
  | hrd off => exact (hrd_cmdOvr h).trans hs
  | hwr off v => exact hwr_keepsOverrun h hs fun he => hcmd v (by rw [he])
  | wait =>
    cases hb : s.busy with
    | true => rw [input_wait_busy rest hb] at h; exact (coreStep_cmdOvr h).trans hs
    | false =>
      rw [input_wait_idle rest hb] at h
      injection h with h
      rw [← h]
      exact hs
  | yield => exact (coreTurn_cmdOvr h).trans hs
  | rst => exact absurd rfl hrst

theorem step_keepsOverrun {s t : State} (h : step s = .next t) (hs : s.cmdOvr = true)
    (hcmd : ∀ w rest, s.inbox = .hwr offCmd w :: rest → s.busy = true) (hrst : ∀ rest, s.inbox ≠ .rst :: rest) :
    t.cmdOvr = true := by
  cases hi : s.inbox with
  | nil => rw [step_nil s hi] at h; exact (coreTurn_cmdOvr h).trans hs
  | cons x rest =>
    rw [step_cons s x rest hi] at h
    exact input_keepsOverrun h hs (fun w hx => hcmd w rest (hx ▸ hi)) fun hx => hrst rest (hx ▸ hi)

/-- A command that runs whole ends where the moves of the CORE end, none of which touches CMD_OVR. -/
theorem run_cmdOvr (i : Instr) {s : State} (ho : operandsLegal i s = true) :
    (finish (operation i (acceptCommand i (takeWord (encode i) s)))).cmdOvr = false := by
  have hlegal : operandsLegal i (withInbox [] s) = true := by rw [← ho]; cases i <;> rfl
  have hstart : (acceptedState i (withInbox [] s)).cmdOvr = false := by cases i <;> rfl
  have hend := reaches_keeps (P := fun v => v.cmdOvr = false) (fun _ _ _ h hs => (coreStep_cmdOvr h).trans hs)
    (accepted_reaches i hlegal rfl) hstart
  have hsame : acceptCommand i (takeWord (encode i) (withInbox [] s)) =
      withInbox [] (acceptCommand i (takeWord (encode i) s)) := by cases i <;> rfl
  rwa [hsame, operation_inboxBlind] at hend

/-- A write to CMD that is taken clears CMD_OVR, whatever becomes of the word (R197). -/
theorem cmdWrite_idle_cmdOvr {w : Word} {s t : State} (hb : s.busy = false) (h : cmdWrite w s = .next t) :
    t.cmdOvr = false := by
  cases hw : decode w with
  | error e =>
    rw [cmdWrite_undecoded hw hb] at h
    injection h with h
    rw [← h]
    rfl
  | ok i =>
    rw [cmdWrite_decoded hw, exec_eq_command] at h
    obtain ⟨hbusy, -⟩ | ⟨-, -, rfl⟩ | ⟨-, ho, -, rfl⟩ | ⟨-, -, -, rfl⟩ := command_cases h
    · simp [hb] at hbusy
    · rfl
    · exact run_cmdOvr i ho
    · cases i <;> rfl

/-- Settles O7: a write to CMD while BUSY = 1 is an overrun, of the other steps only a reset and a write that is taken
touch CMD_OVR, and the latter clears it. -/
theorem cmdWriteWhileBusyIsDropped : Obligations.CmdWriteWhileBusyIsDropped :=
  ⟨fun w _ hb => cmdWrite_busy hb w, fun _ _ h hs => step_keepsOverrun h hs, fun _ _ _ => cmdWrite_idle_cmdOvr⟩

/-! ### Accept by a HOST that polls (R197) -/

theorem exec_polls {i : Instr} {s : State} (hb : s.busy = false) (hc : s.caller = .polls)
    (ho : operandsLegal i s = true) : exec i s = .next (acceptedState i s) := by
  rw [exec_eq_command, command_polls _ _ _ s hb ho hc, acceptedState]

theorem coreStep_acceptedState (i : Instr) (s : State) :
    coreStep (acceptedState i s) = .next (firstPrimitive i (acceptedState i s)) := rfl

/-- No command completes in its first primitive. -/
theorem firstPrimitive_busy (i : Instr) (s : State) : (firstPrimitive i s).busy = s.busy := by cases i <;> rfl

/-- What accept takes from the word, whatever the command. -/
theorem acceptedState_outline (i : Instr) (s : State) :
    outline (acceptedState i s) =
      { outline s with
        cmd := encode i, opcur := opField (encode i), busy := true, done := false, cmdOvr := false,
        trace := s.trace ++ [.cmd (encode i)] } := by
  cases i <;> rfl

/-- Settles O9: accept is `acceptedState`, from which the CORE's first step is the command's first primitive. -/
theorem acceptRaisesBusy : Obligations.AcceptRaisesBusy := by
  intro i s hb hc ho
  have hout := acceptedState_outline i s
  injection hout with hcmd hopcur _ _ _ hovr _ _ htrace hbusy hdone hresult
  have hbuf : (acceptedState i s).buf = s.buf := by cases i <;> rfl
  refine ⟨_, _, exec_polls hb hc ho, hbusy, hdone, hovr, hcmd, hopcur, htrace, hresult, hbuf, rfl,
    coreStep_acceptedState i s, (firstPrimitive_busy i _).trans hbusy, ?_⟩
  cases i with
  | write a l => exact ⟨rfl, rfl, rfl, rfl, rfl, rfl, rfl, rfl⟩
  | read a l => exact ⟨rfl, rfl, rfl, rfl, rfl, rfl, rfl, rfl⟩
  | forceClear => exact ⟨rfl, rfl, rfl, rfl⟩
  | measure => exact ⟨rfl, rfl, rfl, rfl, rfl, rfl, rfl, rfl⟩
  | scan => exact ⟨rfl, rfl, rfl, rfl, rfl, rfl, rfl⟩
  | reinit => exact ⟨rfl, rfl, rfl, rfl⟩

end Sys2Proof.Proofs
end

section
/-! ## Proofs: reset at any time, and the three flags no command depends on (R240, R245)

`FlagBlind f`: runs of `f` from two states that differ in DESYNC, PIN_OVR and ACKPOL only answer the same and end in two
such states. Every procedure of the block is flag-blind, phase by phase, and so is the meaning of every command. -/

open Sys2Proof Sys2Proof.Machine Sys2Proof.Safety

namespace Sys2Proof.Proofs

/-! ### Reset (R240) -/

/-- Settles O18: the reset input is the next one whether or not a command is in progress. -/
theorem resetAtAnyTime : Obligations.ResetAtAnyTime := by
  intro s rest h
  rw [step_cons s .rst rest h]
  rfl

/-! ### Two states that differ in the three status flags only -/

def withFlags (d p a : Bool) (s : State) : State := { s with desync := d, pinOvr := p, ackpol := a }

inductive SameButFlags (s : State) : State → Prop
  | mk (d p a : Bool) : SameButFlags s (withFlags d p a s)

/-- Two runs with one answer, whose end states differ in the three flags only. -/
inductive SameRun {α : Type} : α × State → α × State → Prop
  | mk (o : α) {s t : State} (h : SameButFlags s t) : SameRun (o, s) (o, t)

theorem SameRun.ends {α : Type} {x y : α × State} (h : SameRun x y) :
    ∃ o s t, x = (o, s) ∧ y = (o, t) ∧ SameButFlags s t := by
  obtain ⟨o, h⟩ := h
  exact ⟨o, _, _, rfl, rfl, h⟩

/-- The three flags steer neither the answer of `f` nor any other field of its end state. -/
abbrev FlagBlind {α : Type} (f : State → α × State) : Prop := ∀ ⦃s t⦄, SameButFlags s t → SameRun (f s) (f t)

/-- The three flags do not steer any other field of what `g` makes. -/
abbrev FlagBlindMove (g : State → State) : Prop := ∀ ⦃s t⦄, SameButFlags s t → SameButFlags (g s) (g t)

theorem SameButFlags.estate {s t : State} (h : SameButFlags s t) (x : EState) :
    SameButFlags { s with estate := x } { t with estate := x } := by
  obtain ⟨d, p, a⟩ := h
  exact ⟨d, p, a⟩

theorem SameButFlags.emit {s t : State} (h : SameButFlags s t) (e : Event) : SameButFlags (emit e s) (emit e t) := by
  obtain ⟨d, p, a⟩ := h
  exact ⟨d, p, a⟩

/-! ### The phases of a transaction (R141 to R150) -/

theorem pollLoop_flagBlind (c : PollCond) (watch : Bool) (n : Nat) : FlagBlind (pollLoop c watch n) := by
  induction n with
  | zero => exact fun _ _ h => ⟨_, h⟩
  | succ n ih =>
    rintro s _ ⟨d, p, a⟩
    have hsame : sampleOutcome c watch (withFlags d p a s) = sampleOutcome c watch s := rfl
    rw [pollLoop, pollLoop, hsame]
    cases sampleOutcome c watch s with
    | some o => exact ⟨o, ⟨d, p, a⟩⟩
    | none => exact ih ⟨d, p, a⟩

theorem poll_flagBlind (c : PollCond) (watch : Bool) (b : Word) : FlagBlind (poll c watch b) := by
  rintro s _ ⟨d, p, a⟩
  exact pollLoop_flagBlind c watch b.toNat ⟨d, p, a⟩

theorem SameRun.andThen {x y : Code × State} {k : State → Code × State} (h : SameRun x y) (hk : FlagBlind k) :
    SameRun (andThen x k) (andThen y k) := by
  obtain ⟨c, h⟩ := h
  cases c
  case ok => exact hk h
  all_goals exact ⟨_, h⟩

/-- The one recheck of rule R142, after the forced stop. -/
theorem recheck_flagBlind : FlagBlind fun s =>
    if (nextFlags s).busy then failPlain .busStuck (luSample s) else (.ok, luSample s) := by
  rintro s _ ⟨d, p, a⟩
  dsimp only
  have hsame : nextFlags (withFlags d p a s) = nextFlags s := rfl
  rw [hsame]
  split <;> exact ⟨_, ⟨d, p, a⟩⟩

theorem waitBusFree_flagBlind (b : Word) : FlagBlind (waitBusFree b) := by
  intro s t h
  obtain ⟨o, u, _, hu, hv, ⟨d, p, a⟩⟩ := (poll_flagBlind .busFree false b (h.estate .waitFree)).ends
  unfold waitBusFree
  rw [hu, hv]
  cases o
  case timeout => exact recheck_flagBlind ⟨d, p, a⟩
  all_goals exact ⟨_, ⟨d, p, a⟩⟩

theorem startPhase_flagBlind (d : Dir) (b : Word) : FlagBlind (startPhase d b) := by
  intro s t h
  have hstart : SameButFlags (luStart (startAck d { s with estate := .start }))
      (luStart (startAck d { t with estate := .start })) := by
    obtain ⟨_, p, a⟩ := h
    cases d
    · exact ⟨_, p, a⟩
    · exact ⟨_, p, true⟩
  obtain ⟨o, u, _, hu, hv, ⟨d, p, a⟩⟩ := (poll_flagBlind .txReady false b hstart).ends
  unfold startPhase
  rw [hu, hv]
  cases o <;> exact ⟨_, ⟨d, p, a⟩⟩

theorem addressPhase_flagBlind (a : BusAddr) (d : Dir) (b : Word) : FlagBlind (addressPhase a d b) := by
  intro s t h
  have hsend : SameButFlags (luTxWrite (addressByte a d) { s with estate := .addr })
      (luTxWrite (addressByte a d) { t with estate := .addr }) := (h.estate .addr).emit _
  obtain ⟨o, u, _, hu, hv, ⟨d, p, a⟩⟩ := (poll_flagBlind .txReady true b hsend).ends
  unfold addressPhase
  rw [hu, hv]
  cases o <;> exact ⟨_, ⟨d, p, a⟩⟩

theorem dataTx_flagBlind (v : Byte) (b : Word) : FlagBlind (dataTx v b) := by
  intro s t h
  have hsend : SameButFlags (luTxWrite v s) (luTxWrite v t) := h.emit _
  obtain ⟨o, u, _, hu, hv, ⟨d, p, a⟩⟩ := (poll_flagBlind .txReady true b hsend).ends
  unfold dataTx
  rw [hu, hv]
  cases o <;> exact ⟨_, ⟨d, p, a⟩⟩

/-- The read of a byte and its store; which byte it is, ENV alone decides (R90). -/
theorem store_flagBlind (sel : XSel) (i : Nat) : FlagBlindMove fun s => arrayStore sel i (nextRx s) (luRxRead s) := by
  rintro s _ ⟨d, p, a⟩
  cases sel with
  | buf =>
    simp only [arrayStore, bufStore]
    split <;> exact ⟨d, p, a⟩
  | pay => exact ⟨d, p, a⟩
  | const v => exact ⟨d, p, a⟩

theorem dataRx_flagBlind (last : Bool) (sel : XSel) (i : Nat) (b : Word) : FlagBlind (dataRx last sel i b) := by
  intro s t h
  have hack : SameButFlags (lastAck last s) (lastAck last t) := by
    obtain ⟨d, p, a⟩ := h
    cases last
    · exact ⟨d, p, a⟩
    · exact ⟨d, p, false⟩
  obtain ⟨o, u, _, hu, hv, h⟩ := (poll_flagBlind .rxReady false b hack).ends
  unfold dataRx
  rw [hu, hv]
  cases o
  case timeout => exact ⟨_, h.estate .failed⟩
  all_goals exact ⟨_, store_flagBlind sel i h⟩

theorem dataPhase_flagBlind (d : Dir) (sel : XSel) (l i : Nat) (b : Word) : FlagBlind (dataPhase d sel l i b) := by
  intro s t h
  cases d with
  | write =>
    have hbyte : arrayByte sel t i = arrayByte sel s i := by obtain ⟨d, p, a⟩ := h; cases sel <;> rfl
    rw [dataPhase, dataPhase, hbyte]
    exact dataTx_flagBlind _ b h
  | read => exact dataRx_flagBlind _ sel i b h

theorem dataLoop_flagBlind (d : Dir) (sel : XSel) (l : Nat) (b : Word) (n i : Nat) :
    FlagBlind (dataLoop d sel l b n i) := by
  induction n generalizing i with
  | zero => exact fun _ _ h => ⟨_, h⟩
  | succ n ih =>
    intro s t h
    have hbyte : SameRun (dataByte d sel l i b s) (dataByte d sel l i b t) :=
      (dataPhase_flagBlind d sel l i b h).andThen fun _ _ ⟨d, p, a⟩ => ⟨_, ⟨d, p, a⟩⟩
    exact hbyte.andThen (ih (i + 1))

theorem xactPhases_flagBlind (d : Dir) (a : BusAddr) (l : Byte) (b : Word) (sel : XSel) :
    FlagBlind (xactPhases d a l b sel) := by
  intro s t h
  refine (waitBusFree_flagBlind b h).andThen fun s1 t1 h1 => ?_
  refine (startPhase_flagBlind d b h1).andThen fun s2 t2 h2 => ?_
  refine (addressPhase_flagBlind a d b h2).andThen fun s3 t3 h3 => ?_
  have hloop := dataLoop_flagBlind d sel l.toNat b l.toNat 0 (h3.estate .data)
  exact hloop.andThen fun _ _ ⟨d, p, a⟩ => ⟨_, ⟨d, p, a⟩⟩

theorem xact_flagBlind (d : Dir) (a : BusAddr) (l : Byte) (b : Word) (sel : XSel) : FlagBlind (xact d a l b sel) := by
  intro s t h
  have hlatch : SameButFlags (latchXact d a l b sel s) (latchXact d a l b sel t) := by
    obtain ⟨d', p, a'⟩ := h
    exact ⟨d', p, a'⟩
  obtain ⟨c, u, _, hu, hv, ⟨d', p, a'⟩⟩ := (xactPhases_flagBlind d a l b sel hlatch).ends
  unfold xact
  rw [hu, hv]
  exact ⟨c, ⟨d', p, a'⟩⟩

/-! ### The operations of the commands -/

/-- The recovery gives DESYNC and PIN_OVR values of its own (R131). -/
theorem runForceClear_flagBlind : FlagBlindMove runForceClear := by
  rintro s _ ⟨d, p, a⟩
  rw [runForceClear_eq, runForceClear_eq]
  exact ⟨true, true, a⟩

theorem runReinit_flagBlind : FlagBlindMove runReinit := by
  rintro s _ ⟨d, p, a⟩
  exact ⟨false, false, a⟩

/-- WRITE and READ: the code and the index of one transaction, from the budget latched. -/
theorem dataCommand_flagBlind (d : Dir) (a : BusAddr) (l : Byte) :
    FlagBlind fun s => let x := xact d a l s.opBudget .buf s; ((⟨x.1, .none, x.2.xidx⟩ : Result), x.2) := by
  intro s t h
  have hbudget : t.opBudget = s.opBudget := by obtain ⟨⟩ := h; rfl
  obtain ⟨c, u, _, hu, hv, ⟨d', p, a'⟩⟩ := (xact_flagBlind d a l s.opBudget .buf h).ends
  dsimp only
  rw [hbudget, hu, hv]
  exact ⟨_, ⟨d', p, a'⟩⟩

theorem decodePayload_flagBlind : FlagBlind decodePayload := by
  rintro s _ ⟨d, p, a⟩
  have hpay : (withFlags d p a s).pay = s.pay := rfl
  unfold decodePayload
  rw [hpay]
  split <;> exact ⟨_, ⟨d, p, a⟩⟩

theorem recovery_flagBlind : FlagBlindMove recovery := fun _ _ h => (runForceClear_flagBlind h).emit _

theorem failMeasure_flagBlind (c : Code) (st : Stage) : FlagBlind (failMeasure c st) := by
  rintro s _ ⟨d, p, a⟩
  exact ⟨_, ⟨d, p, a⟩⟩

theorem readStage_flagBlind : FlagBlind readStage := by
  intro s t h
  have hx : SameRun (readXact s) (readXact t) := by
    obtain ⟨d, p, a⟩ := h
    exact xact_flagBlind _ _ _ s.opLong _ ⟨d, p, a⟩
  obtain ⟨c, u, v, hu, hv, h⟩ := hx.ends
  unfold readStage
  rw [hu, hv]
  cases c
  case ok => exact decodePayload_flagBlind h
  all_goals exact failMeasure_flagBlind _ .read (recovery_flagBlind h)

theorem runMeasure_flagBlind : FlagBlind runMeasure := by
  intro s t h
  have hx : SameRun (triggerXact (beginMeasure s)) (triggerXact (beginMeasure t)) := by
    obtain ⟨d, p, a⟩ := h
    exact xact_flagBlind _ _ _ s.opShort _ ⟨d, p, a⟩
  obtain ⟨c, u, _, hu, hv, ⟨d, p, a⟩⟩ := hx.ends
  unfold runMeasure
  rw [hu, hv]
  cases c
  case ok => exact readStage_flagBlind ⟨d, p, a⟩
  all_goals exact ⟨_, ⟨d, p, a⟩⟩

theorem probe_flagBlind (a : Nat) : FlagBlindMove (probe a) := by
  intro s t h
  have hx : SameRun (probeXact a s) (probeXact a t) := by
    obtain ⟨d, p, k⟩ := h
    exact xact_flagBlind _ _ _ s.opShort _ ⟨d, p, k⟩
  obtain ⟨c, u, _, hu, hv, ⟨d, p, k⟩⟩ := hx.ends
  rw [probe_eq, probe_eq, hu, hv]
  cases c <;> exact ⟨d, p, k⟩

theorem scanLoop_flagBlind (n a : Nat) : FlagBlindMove (scanLoop n a) := by
  induction n generalizing a with
  | zero => exact fun _ _ h => h
  | succ n ih => exact fun _ _ h => ih (a + 1) (probe_flagBlind a h)

theorem operation_flagBlind (i : Instr) : FlagBlind (operation i) := by
  intro s t h
  cases i with
  | write a l => exact dataCommand_flagBlind .write a l h
  | read a l => exact dataCommand_flagBlind .read a l h
  | forceClear => exact ⟨okResult, runForceClear_flagBlind h⟩
  | measure => exact runMeasure_flagBlind h
  | scan =>
    obtain ⟨d, p, a⟩ := h
    exact ⟨okResult, scanLoop_flagBlind scanLength Config.addrMin ⟨d, p, a⟩⟩
  | reinit => exact ⟨okResult, runReinit_flagBlind h⟩

/-! ### The meaning of a command (R245) -/

/-- The operand check looks at no status flag (R107). -/
theorem operandsLegal_withFlags (i : Instr) (d p a : Bool) (s : State) :
    operandsLegal i (withFlags d p a s) = operandsLegal i s := by cases i <;> rfl

theorem accept_flagBlind (i : Instr) : FlagBlindMove fun s => acceptCommand i (takeWord (encode i) s) := by
  rintro s _ ⟨d, p, a⟩
  cases i <;> exact ⟨d, p, a⟩

theorem onAccept_flagBlind (i : Instr) : FlagBlindMove (onAccept i) := by
  rintro s _ ⟨d, p, a⟩
  cases i <;> exact ⟨d, p, a⟩

theorem goTo_flagBlind (u : Upc) : FlagBlindMove (goTo u) := by
  rintro s _ ⟨d, p, a⟩
  exact ⟨d, p, a⟩

theorem complete_flagBlind {x y : Result × State} (h : SameRun x y) :
    SameButFlags (complete x.1 x.2) (complete y.1 y.2) := by
  obtain ⟨r, ⟨d, p, a⟩⟩ := h
  exact ⟨d, p, a⟩

/-- The four cases of `command` are told apart without the three flags, and in each the command goes on flag-blind. -/
theorem exec_flagBlind {i : Instr} {s t u : State} (h : SameButFlags s t) (hu : exec i s = .next u) :
    ∃ v, exec i t = .next v ∧ SameButFlags u v := by
  have haccept := accept_flagBlind i h
  obtain ⟨d, p, a⟩ := h
  have hlegal := operandsLegal_withFlags i d p a s
  rw [exec_eq_command] at hu ⊢
  obtain ⟨hb, rfl⟩ | ⟨hb, ho, rfl⟩ | ⟨hb, ho, hc, rfl⟩ | ⟨hb, ho, hc, rfl⟩ := command_cases hu
  · exact ⟨_, command_busy _ _ _ _ hb, ⟨d, p, a⟩⟩
  · exact ⟨_, command_illegal _ _ _ _ hb (hlegal.trans ho), ⟨d, p, a⟩⟩
  · exact ⟨_, command_blocks _ _ _ _ hb (hlegal.trans ho) hc, complete_flagBlind (operation_flagBlind i haccept)⟩
  · exact ⟨_, command_polls _ _ _ _ hb (hlegal.trans ho) hc, goTo_flagBlind _ (onAccept_flagBlind i haccept)⟩

/-- Settles O46: the meaning of every command is flag-blind. -/
theorem statusFlagsDoNotSteerCommands : Obligations.StatusFlagsDoNotSteerCommands := by
  intro i s t d p a h
  obtain ⟨_, hexec, ⟨_, _, _⟩⟩ := exec_flagBlind (.mk d p a) h
  exact ⟨_, hexec, rfl⟩

end Sys2Proof.Proofs
end

section
/-! ## Proofs: the bounds of MEASURE (R171, R260)

Each part of MEASURE makes at most so many samples and other events (`MakesAtMost`); the bounds add up part after part. -/

open Sys2Proof Sys2Proof.Machine Sys2Proof.Safety

namespace Sys2Proof.Proofs

/-- What a part of MEASURE from `s` to `t` makes, at most `m` samples and `n` other events. PAY is an array it may
write. -/
def MakesAtMost (m n : Nat) (s t : State) : Prop := ∃ es, Makes .pay es s t ∧ samples es ≤ m ∧ others es ≤ n

theorem MakesAtMost.trans {m m' n n' : Nat} {s t u : State} (h : MakesAtMost m n s t) (h' : MakesAtMost m' n' t u) :
    MakesAtMost (m + m') (n + n') s u := by
  obtain ⟨es, hes, hm, hn⟩ := h
  obtain ⟨fs, hfs, hm', hn'⟩ := h'
  exact ⟨es ++ fs, hes.trans hfs, by rw [samples_append]; omega, by rw [others_append]; omega⟩

theorem MakesAtMost.mono {m m' n n' : Nat} {s t : State} (h : MakesAtMost m n s t) (hm : m ≤ m') (hn : n ≤ n') :
    MakesAtMost m' n' s t := by
  obtain ⟨es, hes, hm', hn'⟩ := h
  exact ⟨es, hes, hm'.trans hm, hn'.trans hn⟩

theorem makesAtMost_nothing {s t : State} (h : answers t = answers s) : MakesAtMost 0 0 s t :=
  ⟨[], makes_nothing h, le_rfl, le_rfl⟩

theorem MakesAtMost.of_answers_eq {m n : Nat} {s t u : State} (h : MakesAtMost m n s t) (hu : answers u = answers t) :
    MakesAtMost m n s u := h.trans (makesAtMost_nothing hu)

theorem xact_makesAtMost (d : Dir) {l : Byte} {b : Word} (sel : XSel) (s : State) (hl : 0 < l.toNat) (hb : b ≠ 0#32) :
    MakesAtMost ((l.toNat + 3) * b.toNat + 1) (l.toNat + 8) s (xact d Config.sensorAddr l b sel s).2 := by
  obtain ⟨es, hes, ⟨hsamples, hothers⟩, -⟩ := xact_run (sel := sel) d Config.sensorAddr s hl hb
  exact ⟨es, { hes with pay := fun h => absurd rfl h }, hsamples, hothers⟩

theorem conversion_makesAtMost (s : State) : MakesAtMost 0 1 s (conversion s) :=
  ⟨[.dly Config.tConv], event_makes rfl rfl rfl, by decide, by decide⟩

/-- The 38 events of the recovery and the delay after it (R131, R174). -/
theorem recovery_makesAtMost (s : State) : MakesAtMost 0 39 s (recovery s) := by
  rw [recovery_eq]
  exact ⟨forceClearEvents ++ [.dly 50000], ⟨rfl, rfl, rfl, rfl, rfl, fun _ => rfl, fun _ _ => rfl⟩,
    by decide, by decide⟩

theorem decodePayload_answers (s : State) : answers (decodePayload s).2 = answers s := by
  obtain ⟨-, -, h⟩ | ⟨-, -, h⟩ := decodePayload_cases s <;> rw [h] <;> rfl

theorem readStage_makesAtMost {s : State} (hlong : s.opLong ≠ 0#32) :
    MakesAtMost (7 * s.opLong.toNat + 1) (12 + 39) s (readStage s).2 := by
  have hread : MakesAtMost (7 * s.opLong.toNat + 1) 12 s (readXact s).2 :=
    xact_makesAtMost .read (l := Config.payloadLen) .pay s (by decide) hlong
  by_cases hok : (readXact s).1 = .ok
  · rw [readStage_of_ok hok]
    exact (hread.of_answers_eq (decodePayload_answers _)).mono le_rfl (by decide)
  · rw [readStage_of_ne hok]
    exact (hread.trans (recovery_makesAtMost _)).of_answers_eq rfl

theorem runMeasure_makesAtMost {s : State} (hshort : s.opShort ≠ 0#32) (hlong : s.opLong ≠ 0#32) :
    MakesAtMost ((4 * s.opShort.toNat + 1) + (7 * s.opLong.toNat + 1)) (9 + 1 + (12 + 39)) s (runMeasure s).2 := by
  have htrigger : MakesAtMost (4 * s.opShort.toNat + 1) 9 s (triggerXact (beginMeasure s)).2 := by
    have hbegin : MakesAtMost 0 0 s (beginMeasure s) := makesAtMost_nothing rfl
    exact (hbegin.trans (xact_makesAtMost .write (l := 1#8) (.const Config.triggerByte) (beginMeasure s) (by decide)
      hshort)).mono (Nat.zero_add _).le le_rfl
  have hkeeps : (triggerXact (beginMeasure s)).2.opLong = s.opLong := xact_opLong _ _ _ _ _ (beginMeasure s)
  by_cases hok : (triggerXact (beginMeasure s)).1 = .ok
  · rw [runMeasure_of_ok hok]
    rw [← hkeeps] at hlong ⊢
    exact (htrigger.trans (conversion_makesAtMost _)).trans (readStage_makesAtMost hlong)
  · rw [runMeasure_of_ne hok]
    exact (htrigger.mono (Nat.le_add_right _ _) (by decide)).of_answers_eq rfl

/-- Settles O57: TRACE grows by the two brackets and the events of MEASURE, each a sample or not. -/
theorem measureEventsAreBounded : Obligations.MeasureEventsAreBounded := by
  intro s hs
  have hb : s.tbShort ≠ 0#32 ∧ s.tbLong ≠ 0#32 := by
    obtain ⟨-, -, ho⟩ := hs
    simpa [operandsLegal, budgetLegal] using ho
  have hexec := exec_measure hs
  obtain ⟨es, hes, hsamples, hothers⟩ := runMeasure_makesAtMost (s := measuring s) hb.1 hb.2
  change samples es ≤ (4 * s.tbShort.toNat + 1) + (7 * s.tbLong.toNat + 1) at hsamples
  generalize runMeasure (measuring s) = out at hes hexec
  have hsmp : (complete out.1 out.2).nSmp = s.nSmp + samples es := hes.nSmp
  have htrace : (complete out.1 out.2).trace = s.trace ++ [.cmd (encode .measure)] ++ es ++ [.ret out.1] :=
    congrArg (· ++ [Event.ret out.1]) hes.trace
  refine ⟨_, hexec, by omega, by omega, ?_⟩
  rw [htrace]
  simp only [List.length_append, List.length_singleton, length_eq_samples_add_others es]
  omega

end Sys2Proof.Proofs
end

section
/-! ## Proofs: the rows of the numeric table (R178 to R181)

The eight rows are evaluations of the default NUM. -/

open Sys2Proof Sys2Proof.Machine

namespace Sys2Proof.Proofs

theorem numHum_rows :
    numHum 1#14 = 0x3BC80320#32 ∧ numHum 5461#14 = 0x42055556#32 ∧ numHum 8192#14 = 0x42480320#32 := by decide

theorem numTemp_rows :
    numTemp 1#14 = 0xC21FF5B0#32 ∧ numTemp 4096#14 = 0x3FA05280#32 ∧ numTemp 5461#14 = 0x41700000#32 ∧
      numTemp 8192#14 = 0x422A0528#32 ∧ numTemp 16128#14 = 0x42F4DD14#32 := by decide

/-- Settles O40: the rows for humidity and those for temperature. -/
theorem numTableRows : Obligations.NumTableRows := by
  obtain ⟨h1, h5461, h8192⟩ := numHum_rows
  exact ⟨h1, h5461, h8192, numTemp_rows⟩

end Sys2Proof.Proofs
end

section
/-! ## Proofs: the address byte, and that it comes first (R108, R142 to R144)

As a number the address byte is twice the address plus the direction bit; its fields and its range are read off that. The
phases before the address phase transmit nothing (`SendsNothing`), for every budget, 0 among them; the address phase
transmits its byte before its poll, and TRACE only grows after it (`SendsFirst`). -/

open Sys2Proof Sys2Proof.Machine Sys2Proof.Safety

namespace Sys2Proof.Proofs

/-! ### The byte (R108) -/

theorem addressByte_toNat (a : BusAddr) (d : Dir) : (addressByte a d).toNat = 2 * a.toNat + (dirBit d).toNat := by
  have hshift : (a.setWidth 8 <<< 1).toNat = a.toNat <<< 1 := by
    rw [BitVec.toNat_shiftLeft, BitVec.toNat_setWidth_of_le (by decide)]
    exact Nat.mod_eq_of_lt (by rw [Nat.shiftLeft_eq]; omega)
  have hbit : ((BitVec.ofBool (dirBit d)).setWidth 8).toNat = (dirBit d).toNat := by cases d <;> rfl
  have hlow : (dirBit d).toNat < 2 ^ 1 := Bool.toNat_lt _
  rw [addressByte, BitVec.toNat_or, hshift, hbit, ← Nat.shiftLeft_add_eq_or_of_lt hlow, Nat.shiftLeft_eq, Nat.mul_comm]

theorem addressByte_eq_or (a : BusAddr) (d : Dir) :
    addressByte a d = (a.setWidth 8 <<< 1) ||| (match d with | .write => 0#8 | .read => 1#8) := by
  cases d <;> rfl

theorem addressByte_address (a : BusAddr) (d : Dir) : (addressByte a d).extractLsb' 1 7 = a := by
  have hbit := Bool.toNat_lt (dirBit d)
  refine BitVec.eq_of_toNat_eq ?_
  rw [BitVec.extractLsb'_toNat, addressByte_toNat, Nat.shiftRight_eq_div_pow]
  omega

theorem addressByte_direction (a : BusAddr) (d : Dir) : (addressByte a d).getLsbD 0 = decide (d = .read) := by
  rw [BitVec.getLsbD, addressByte_toNat, Nat.testBit_zero]
  cases d <;> simp [dirBit]

theorem addressByte_range (a : BusAddr) (d : Dir) (hlo : 1 ≤ a.toNat) (hhi : a.toNat ≤ 0x7E) :
    0x02 ≤ (addressByte a d).toNat ∧ (addressByte a d).toNat ≤ 0xFD := by
  have hbit := Bool.toNat_lt (dirBit d)
  rw [addressByte_toNat]
  omega

/-! ### What a part of a transaction transmits first -/

/-- From `s` to `t` TRACE grows by events that transmit no byte. -/
def SendsNothing (s t : State) : Prop := ∃ es, t.trace = s.trace ++ es ∧ txBytes es = []

/-- From `s` to `t` TRACE grows, and the first byte transmitted is `v`, if there is one. -/
def SendsFirst (v : Byte) (s t : State) : Prop :=
  ∃ es, t.trace = s.trace ++ es ∧ (txBytes es = [] ∨ ∃ rest, txBytes es = v :: rest)

theorem Phase.sendsNothing {sel : XSel} {m n : Nat} {s : State} {r : Code × State} (h : Phase sel [] m n s r) :
    SendsNothing s r.2 := by
  obtain ⟨es, hes, hcount, -⟩ := h
  exact ⟨es, hes.trace, hcount.tx⟩

theorem SendsNothing.before {v : Byte} {s t u : State} (h : SendsNothing s t) (h' : SendsFirst v t u) :
    SendsFirst v s u := by
  obtain ⟨es, ht, hes⟩ := h
  obtain ⟨fs, hu, hfs⟩ := h'
  refine ⟨es ++ fs, by rw [hu, ht, List.append_assoc], ?_⟩
  rwa [txBytes_append, hes, List.nil_append]

theorem SendsNothing.sendsFirst {s t : State} (h : SendsNothing s t) (v : Byte) : SendsFirst v s t := by
  obtain ⟨es, ht, hes⟩ := h
  exact ⟨es, ht, .inl hes⟩

/-- A phase that transmits nothing, and what follows it if it succeeds. -/
theorem SendsNothing.andThen {v : Byte} {s : State} {r : Code × State} {k : State → Code × State}
    (h : SendsNothing s r.2) (hk : ∀ t, SendsFirst v t (k t).2) : SendsFirst v s (andThen r k).2 := by
  by_cases hok : r.1 = .ok
  · rw [andThen_of_ok hok]
    exact h.before (hk r.2)
  · rw [andThen_of_ne hok]
    exact h.sendsFirst v

/-- What comes after the first byte does not matter. -/
theorem sendsFirst_of_extends {v : Byte} {s t : State} (h : s.trace ++ [.tx v] <+: t.trace) : SendsFirst v s t := by
  obtain ⟨es, hes⟩ := h
  exact ⟨.tx v :: es, by rw [← hes, List.append_assoc]; rfl, .inr ⟨txBytes es, rfl⟩⟩

/-! ### The phases (R142 to R144). A poll with budget 0 takes no sample and times out. -/

theorem recheck_sendsNothing (s : State) : SendsNothing s (recheck s) :=
  ⟨recheckEvents (nextFlags s), by simp [recheck_eq, recheckEvents], rfl⟩

theorem waitBusFree_sendsNothing (b : Word) (s : State) : SendsNothing s (waitBusFree b s).2 := by
  by_cases hb : b = 0#32
  · subst hb
    rw [waitBusFree_of_timeout rfl]
    split <;> exact recheck_sendsNothing { s with estate := .waitFree, cnt := 0#32 }
  · exact (waitBusFree_phase (sel := .buf) s hb).sendsNothing

theorem startPhase_sendsNothing (d : Dir) (b : Word) (s : State) : SendsNothing s (startPhase d b s).2 := by
  by_cases hb : b = 0#32
  · subst hb
    exact ⟨startEvents d, (startAck_makes (sel := .buf) d s).trace, (tally_startEvents d).tx⟩
  · exact (startPhase_phase (sel := .buf) d s hb).sendsNothing

theorem addressPhase_transmits (a : BusAddr) (d : Dir) (b : Word) (s : State) :
    s.trace ++ [.tx (addressByte a d)] <+: (addressPhase a d b s).2.trace := by
  have hpoll := poll_engine .txReady true b (luTxWrite (addressByte a d) { s with estate := .addr })
  unfold addressPhase
  dsimp only
  split
  · exact hpoll.trace
  · exact (hpoll.trans (failNack_engine .addressNack _)).trace
  · exact (hpoll.trans (failPlain_engine .addressTimeout _)).trace

/-- The address phase, and whatever follows it that only extends TRACE. -/
theorem addressPhase_andThen_sendsFirst (a : BusAddr) (d : Dir) (b : Word) {k : State → Code × State}
    (hk : ∀ t, EngineFrame t (k t).2) (s : State) :
    SendsFirst (addressByte a d) s (andThen (addressPhase a d b s) k).2 := by
  have hrest := andThen_engine (.refl (addressPhase a d b s).2) hk
  exact sendsFirst_of_extends ((addressPhase_transmits a d b s).trans hrest.trace)

theorem xactPhases_sendsFirst (d : Dir) (a : BusAddr) (l : Byte) (b : Word) (sel : XSel) (s : State) :
    SendsFirst (addressByte a d) s (xactPhases d a l b sel s).2 := by
  refine (waitBusFree_sendsNothing b s).andThen fun s1 => ?_
  refine (startPhase_sendsNothing d b s1).andThen fun s2 => ?_
  refine addressPhase_andThen_sendsFirst a d b (fun s3 => ?_) s2
  have hdata := (estate_engine .data s3).trans (dataLoop_engine d sel l.toNat b l.toNat 0 _)
  exact andThen_engine hdata stopPhase_engine

theorem xact_sendsFirst (d : Dir) (a : BusAddr) (l : Byte) (b : Word) (sel : XSel) (s : State) :
    SendsFirst (addressByte a d) s (xact d a l b sel s).2 :=
  xactPhases_sendsFirst d a l b sel (latchXact d a l b sel s)

/-- Settles O4: the fields and the range by the byte's value, the place on the bus phase by phase, the rule's four
examples by evaluation. -/
theorem addressByteIsAddressThenDirection : Obligations.AddressByteIsAddressThenDirection :=
  ⟨fun a d => ⟨addressByte_eq_or a d, addressByte_address a d, addressByte_direction a d⟩, addressByte_range,
    xact_sendsFirst, by decide⟩

end Sys2Proof.Proofs
end
